-- ==== Sys2Proof/Word.lean ====
section
/-! DEFINITION. The words of the block (00_scope.md R11): bytes, 16-bit fields and the 32-bit clock, all unsigned. -/

namespace Sys2Proof

/-- `u8`: a byte of a request, a result, a slot buffer or the transport (R11). -/
abbrev Byte := BitVec 8

/-- `u16`: a register address or a data field (R11). -/
abbrev Half := BitVec 16

/-- `u32`: the millisecond clock and the timers' start values (R9, R11). -/
abbrev Time := BitVec 32

end Sys2Proof
end

