-- ==== Sys2Proof/Syntax.lean ====
section
/-! DEFINITION. The operation requests: one constructor per row of spec/opcode_table.json (30_encoding.md R63), its
arguments the operands of the row's format (R60). Operands are kept as the request carries them, so that a slot
id of 4 or a foreign command id is still a request and gets its answer ILLEGAL (R65). -/

namespace Sys2Proof

/-- One operation request. -/
inductive Instr
  /-- NOP, 0x00, format F0. -/
  | nop
  /-- CSUM, 0x01, format FL: the n bytes of the list; n itself is the list's length. -/
  | csum (bytes : List Byte)
  /-- CHKFRAME, 0x02, format FL. -/
  | chkframe (bytes : List Byte)
  /-- ENCODE, 0x03, format FE. -/
  | encode (dev cmd : Byte) (reg data : Half)
  /-- DECODE16, 0x04, format FD. -/
  | decode16 (g2 g1 g0 : Byte)
  /-- RD_REG, 0x10, format FR. -/
  | rdReg (cmd : Byte) (reg : Half)
  /-- WR_REG, 0x11, format FW. -/
  | wrReg (cmd : Byte) (reg data : Half)
  /-- RD_LAST_ERR, 0x12, format F0. -/
  | rdLastErr
  /-- RD_PREV_ERR, 0x13, format F0. -/
  | rdPrevErr
  /-- RD_VERSION, 0x14, format F0. -/
  | rdVersion
  /-- RD_DISPLAY, 0x15, format FA. -/
  | rdDisplay (reg : Half)
  /-- POLL, 0x20, format F0. -/
  | poll
  /-- RELEASE, 0x21, format FS. -/
  | release (k : Byte)
  /-- IS_USED, 0x30, format FS. -/
  | isUsed (k : Byte)
  /-- IS_PENDING, 0x31, format FS. -/
  | isPending (k : Byte)
  /-- IS_VALID, 0x32, format FS. -/
  | isValid (k : Byte)
  /-- GET_DEVADDR, 0x33, format FS. -/
  | getDevaddr (k : Byte)
  /-- READ_BUF, 0x34, format FSI. -/
  | readBuf (k i : Byte)
  /-- GET_VALUE, 0x40, format F0. -/
  | getValue
  /-- GET_ERR_ID, 0x41, format F0. -/
  | getErrId
  /-- GET_ERR_LOG, 0x42, format F0. -/
  | getErrLog
  /-- GET_DISPLAY, 0x43, format F0. -/
  | getDisplay
deriving DecidableEq, Repr

end Sys2Proof
end

