-- ==== Sys2Proof/Decode.lean ====
section
/-! DEFINITION. The opcode map (30_encoding.md R63), the formats (R60, R61), the decoder of the request byte stream
and the encoder written from the same tables. -/

namespace Sys2Proof

/-- The request formats of 30_encoding.md R60. -/
inductive Format
  | f0
  | fl
  | fe
  | fd
  | fr
  | fw
  | fa
  | fs
  | fsi
deriving DecidableEq, Repr

/-- The operations of the opcode map (30_encoding.md R63), by mnemonic. -/
inductive Op
  | nop
  | csum
  | chkframe
  | encode
  | decode16
  | rdReg
  | wrReg
  | rdLastErr
  | rdPrevErr
  | rdVersion
  | rdDisplay
  | poll
  | release
  | isUsed
  | isPending
  | isValid
  | getDevaddr
  | readBuf
  | getValue
  | getErrId
  | getErrLog
  | getDisplay
deriving DecidableEq, Repr

/-- Every row of the opcode map, in its order (R63). -/
def Op.all : List Op :=
  [.nop, .csum, .chkframe, .encode, .decode16, .rdReg, .wrReg, .rdLastErr, .rdPrevErr, .rdVersion, .rdDisplay,
   .poll, .release, .isUsed, .isPending, .isValid, .getDevaddr, .readBuf, .getValue, .getErrId, .getErrLog,
   .getDisplay]

/-- The opcode column of R63. -/
def Op.code : Op → Byte
  | .nop => 0x00
  | .csum => 0x01
  | .chkframe => 0x02
  | .encode => 0x03
  | .decode16 => 0x04
  | .rdReg => 0x10
  | .wrReg => 0x11
  | .rdLastErr => 0x12
  | .rdPrevErr => 0x13
  | .rdVersion => 0x14
  | .rdDisplay => 0x15
  | .poll => 0x20
  | .release => 0x21
  | .isUsed => 0x30
  | .isPending => 0x31
  | .isValid => 0x32
  | .getDevaddr => 0x33
  | .readBuf => 0x34
  | .getValue => 0x40
  | .getErrId => 0x41
  | .getErrLog => 0x42
  | .getDisplay => 0x43

/-- The format column of R63. -/
def Op.format : Op → Format
  | .nop => .f0
  | .csum => .fl
  | .chkframe => .fl
  | .encode => .fe
  | .decode16 => .fd
  | .rdReg => .fr
  | .wrReg => .fw
  | .rdLastErr => .f0
  | .rdPrevErr => .f0
  | .rdVersion => .f0
  | .rdDisplay => .fa
  | .poll => .f0
  | .release => .fs
  | .isUsed => .fs
  | .isPending => .fs
  | .isValid => .fs
  | .getDevaddr => .fs
  | .readBuf => .fsi
  | .getValue => .f0
  | .getErrId => .f0
  | .getErrLog => .f0
  | .getDisplay => .f0

/-- The operation an opcode byte selects; none for an unassigned opcode (R63, R64). It depends on the byte alone:
there are no mode bits (R73). -/
def Op.ofByte (b : Byte) : Option Op := Op.all.find? (fun op => op.code == b)

/-- The length of a request from its format and the bytes after the opcode (R60, R61); none when format FL has not
yet got its count byte. -/
def Format.length : Format → List Byte → Option Nat
  | .f0, _ => some 1
  | .fl, [] => none
  | .fl, n :: _ => some (2 + n.toNat)
  | .fe, _ => some 7
  | .fd, _ => some 4
  | .fr, _ => some 4
  | .fw, _ => some 6
  | .fa, _ => some 3
  | .fs, _ => some 2
  | .fsi, _ => some 3

/-- The length of the request at the front of a byte stream (R61); an unassigned opcode makes a request of length 1
(R64); none when the stream does not tell it yet. -/
def requestLength : List Byte → Option Nat
  | [] => none
  | b :: rest =>
    match Op.ofByte b with
    | none => some 1
    | some op => op.format.length rest

/-- A big-endian 16-bit operand (20_memory.md R43): the first byte holds bits 15:8. -/
def be16 (hi lo : Byte) : Half := (hi.setWidth 16 <<< 8) ||| lo.setWidth 16

/-- Bits 15:8 of a 16-bit value, its first byte (20_memory.md R43). -/
def hiByte (v : Half) : Byte := v.extractLsb' 8 8

/-- Bits 7:0 of a 16-bit value, its second byte (20_memory.md R43). -/
def loByte (v : Half) : Byte := v.extractLsb' 0 8

/-- What stands at the front of the request byte stream. -/
inductive Decoded
  /-- A whole request and the bytes after it, which begin the next request (R66). -/
  | request (i : Instr) (rest : List Byte)
  /-- An unassigned opcode: the request is the opcode byte alone (R64). -/
  | illegal (opcode : Byte) (rest : List Byte)
  /-- Fewer bytes than the format requires: not a request (R66). -/
  | incomplete
deriving DecidableEq, Repr

/-- The operands of format FL (R60): the count n, then n bytes. -/
def decodeList (mk : List Byte → Instr) : List Byte → Decoded
  | [] => .incomplete
  | n :: rest =>
    if n.toNat ≤ rest.length then .request (mk (rest.take n.toNat)) (rest.drop n.toNat) else .incomplete

/-- The operand of format FS (R60): a slot id byte. -/
def decodeSlot (mk : Byte → Instr) : List Byte → Decoded
  | [] => .incomplete
  | k :: rest => .request (mk k) rest

/-- The operands after the opcode byte, by the layout of the operation's format (R60). -/
def decodeOperands (op : Op) (bytes : List Byte) : Decoded :=
  match op with
  | .nop => .request .nop bytes
  | .csum => decodeList .csum bytes
  | .chkframe => decodeList .chkframe bytes
  | .encode =>
    match bytes with
    | dev :: cmd :: rh :: rl :: dh :: dl :: rest => .request (.encode dev cmd (be16 rh rl) (be16 dh dl)) rest
    | _ => .incomplete
  | .decode16 =>
    match bytes with
    | g2 :: g1 :: g0 :: rest => .request (.decode16 g2 g1 g0) rest
    | _ => .incomplete
  | .rdReg =>
    match bytes with
    | cmd :: rh :: rl :: rest => .request (.rdReg cmd (be16 rh rl)) rest
    | _ => .incomplete
  | .wrReg =>
    match bytes with
    | cmd :: rh :: rl :: dh :: dl :: rest => .request (.wrReg cmd (be16 rh rl) (be16 dh dl)) rest
    | _ => .incomplete
  | .rdLastErr => .request .rdLastErr bytes
  | .rdPrevErr => .request .rdPrevErr bytes
  | .rdVersion => .request .rdVersion bytes
  | .rdDisplay =>
    match bytes with
    | rh :: rl :: rest => .request (.rdDisplay (be16 rh rl)) rest
    | _ => .incomplete
  | .poll => .request .poll bytes
  | .release => decodeSlot .release bytes
  | .isUsed => decodeSlot .isUsed bytes
  | .isPending => decodeSlot .isPending bytes
  | .isValid => decodeSlot .isValid bytes
  | .getDevaddr => decodeSlot .getDevaddr bytes
  | .readBuf =>
    match bytes with
    | k :: i :: rest => .request (.readBuf k i) rest
    | _ => .incomplete
  | .getValue => .request .getValue bytes
  | .getErrId => .request .getErrId bytes
  | .getErrLog => .request .getErrLog bytes
  | .getDisplay => .request .getDisplay bytes

/-- The decoder of the request byte stream: read byte 0, look the opcode up, read the operands of its format
(R61). Total: an unassigned opcode is `illegal`, a truncated request `incomplete`. -/
def decode : List Byte → Decoded
  | [] => .incomplete
  | b :: rest =>
    match Op.ofByte b with
    | none => .illegal b rest
    | some op => decodeOperands op rest

/-- The row of the opcode map an instruction belongs to. -/
def Instr.op : Instr → Op
  | .nop => .nop
  | .csum _ => .csum
  | .chkframe _ => .chkframe
  | .encode _ _ _ _ => .encode
  | .decode16 _ _ _ => .decode16
  | .rdReg _ _ => .rdReg
  | .wrReg _ _ _ => .wrReg
  | .rdLastErr => .rdLastErr
  | .rdPrevErr => .rdPrevErr
  | .rdVersion => .rdVersion
  | .rdDisplay _ => .rdDisplay
  | .poll => .poll
  | .release _ => .release
  | .isUsed _ => .isUsed
  | .isPending _ => .isPending
  | .isValid _ => .isValid
  | .getDevaddr _ => .getDevaddr
  | .readBuf _ _ => .readBuf
  | .getValue => .getValue
  | .getErrId => .getErrId
  | .getErrLog => .getErrLog
  | .getDisplay => .getDisplay

/-- The operand bytes of an instruction, in the order of its format (R60). -/
def Instr.operandBytes : Instr → List Byte
  | .nop => []
  | .csum bytes => BitVec.ofNat 8 bytes.length :: bytes
  | .chkframe bytes => BitVec.ofNat 8 bytes.length :: bytes
  | .encode dev cmd reg data => [dev, cmd, hiByte reg, loByte reg, hiByte data, loByte data]
  | .decode16 g2 g1 g0 => [g2, g1, g0]
  | .rdReg cmd reg => [cmd, hiByte reg, loByte reg]
  | .wrReg cmd reg data => [cmd, hiByte reg, loByte reg, hiByte data, loByte data]
  | .rdLastErr => []
  | .rdPrevErr => []
  | .rdVersion => []
  | .rdDisplay reg => [hiByte reg, loByte reg]
  | .poll => []
  | .release k => [k]
  | .isUsed k => [k]
  | .isPending k => [k]
  | .isValid k => [k]
  | .getDevaddr k => [k]
  | .readBuf k i => [k, i]
  | .getValue => []
  | .getErrId => []
  | .getErrLog => []
  | .getDisplay => []

/-- The encoder: the opcode byte, then the operands (R60). -/
def encode (i : Instr) : List Byte := i.op.code :: i.operandBytes

/-- The bytes of a word as the opcode table numbers its bits: the first byte is bits 7:0. Only the low `nbits`
bits count. -/
def wordBytes (nbits w : Nat) : List Byte :=
  (List.range ((nbits + 7) / 8)).map (fun j => BitVec.ofNat 8 ((w % 2 ^ nbits) >>> (8 * j)))

/-- The longest request: format FL with n = 255 (R60). -/
def longestRequest : Nat := 257

/-- The bytes of a table word followed by operand bytes of zero, up to the longest request. -/
def tableBytes (nbits w : Nat) : List Byte := wordBytes nbits w ++ List.replicate longestRequest 0x00

/-- Exactly the bytes of the request that begins with a table word, its operands above `nbits` zero. -/
def tableRequest (nbits w : Nat) : List Byte :=
  (tableBytes nbits w).take ((requestLength (tableBytes nbits w)).getD 0)

/-- The instruction the decoder reads from a table word; none where it refuses. -/
def decodeTableWord (nbits w : Nat) : Option Instr :=
  match decode (tableRequest nbits w) with
  | .request i _ => some i
  | .illegal _ _ => none
  | .incomplete => none

end Sys2Proof
end

