-- ==== Sys2Proof/Config.lean ====
section
/-! DEFINITION. The names the parameters of 00_scope.md section 4 are indexed by, and its OPEN parameters as
constants with no body: nothing can be proved of their values (log entry 4). The fixed parameters stand in
Machine/Params.lean. -/

namespace Sys2Proof

/-- The four response slots (10_state.md R21). Slot numbers 4 to 255 name no slot. -/
inductive SlotId
  | standard
  | confirmation
  | errorLog
  | display
deriving DecidableEq, Repr, Inhabited

/-- The twelve command ids by name (00_scope.md R4, 30_encoding.md R69). -/
inductive CmdId
  | readFrontPanel
  | writeFrontPanel
  | readSystemReg
  | writeSystemReg
  | readTimerReg
  | writeTimerReg
  | readRegExtra
  | writeRegExtra
  | readDisplay
  | readLastError
  | readPrevError
  | readFwVersion
deriving DecidableEq, Repr, Inhabited

/-- `ARB_POLICY` (00_scope.md R7): which busy predicate the slot arbiter uses (44_controller.md R120). -/
inductive ArbPolicy
  | untilRelease
  | pendingOnly
deriving DecidableEq, Repr, Inhabited

/-- The position of a command id in the list of R4. It only tells the twelve apart; it is not the id's value. -/
def CmdId.position : CmdId → Nat
  | .readFrontPanel => 0
  | .writeFrontPanel => 1
  | .readSystemReg => 2
  | .writeSystemReg => 3
  | .readTimerReg => 4
  | .writeTimerReg => 5
  | .readRegExtra => 6
  | .writeRegExtra => 7
  | .readDisplay => 8
  | .readLastError => 9
  | .readPrevError => 10
  | .readFwVersion => 11

/-- `CHECKSUM_FN`, written `CS` by the spec (00_scope.md R2, 40_checksum.md R80): a total function of the byte
sequence, and nothing more is known of it. -/
opaque Config.checksum : List Byte → Byte

/-- `DEV_ADDR`, byte 0 of every command frame the block issues (00_scope.md R3). -/
opaque Config.devAddr : Byte

/-- `HOST_ADDR`, the address the device echoes in byte 0 of its responses (00_scope.md R3). No operation reads it;
the caller compares GET_DEVADDR with it (43_responses.md R118). -/
opaque Config.hostAddr : Byte

/-- Which byte each command id is. R4 leaves the twelve values open but pairwise distinct. Every choice of twelve
distinct bytes is the image of twelve fixed positions under some permutation of the bytes, and every permutation
gives twelve distinct bytes, so an unknown permutation says exactly R4 and no more (log entry 4). -/
opaque Config.cmdBytes : Equiv.Perm Byte

/-- `ARB_POLICY` (00_scope.md R7), OPEN: no default is assumed, so a claim holds under both policies. -/
opaque Config.arbPolicy : ArbPolicy

/-- The value of a command id: the parameter `CMD_*` of 00_scope.md R4. -/
def Config.cmdId (c : CmdId) : Byte := Config.cmdBytes (BitVec.ofNat 8 c.position)

end Sys2Proof
end

