-- ==== Sys2Proof/Machine/Params.lean ====
section
/-! DEFINITION. The fixed parameters and numberings of the spec: slot ids and sizes, the timeout, the text lengths,
the status codes. -/

namespace Sys2Proof

/-- The slot's number (10_state.md R21). -/
def SlotId.index : SlotId → Nat
  | .standard => 0
  | .confirmation => 1
  | .errorLog => 2
  | .display => 3

/-- The slot's number as the byte a result carries (44_controller.md R122). -/
def SlotId.byte (k : SlotId) : Byte := BitVec.ofNat 8 k.index

/-- `N_k`, the size of the slot's buffer in bytes (00_scope.md R6, 10_state.md R21). -/
def SlotId.size : SlotId → Nat
  | .standard => 5
  | .confirmation => 1
  | .errorLog => 42
  | .display => 42

namespace Machine

/-- `TIMEOUT_MS` (00_scope.md R5). -/
def timeoutMs : Nat := 30000

/-- `ERRLOG_CHARS` (00_scope.md R8). -/
def errlogChars : Nat := 15

/-- `DISP_CHARS` (00_scope.md R8). -/
def dispChars : Nat := 20

/-- The status codes of 30_encoding.md R70. -/
inductive Status
  /-- The operation ran; its values follow. -/
  | ok
  /-- An issue was turned away by the arbiter. -/
  | busy
  /-- RELEASE of a pending slot was turned away. -/
  | refusedPending
  /-- Illegal opcode or operand. -/
  | illegal
deriving DecidableEq, Repr

/-- The code in byte 0 of a result (30_encoding.md R70). -/
def Status.code : Status → Byte
  | .ok => 0x00
  | .busy => 0x01
  | .refusedPending => 0x02
  | .illegal => 0xFF

end Machine

end Sys2Proof
end

