-- ==== Sys2Proof/Machine/State.lean ====
section
/-! DEFINITION. The state of the machine as plain data: the block's state exactly as 10_state.md R20 lists it, the
environment it reaches (R30, R31), and the model's own fields for the operation interface (log entries 1 to 3).
Faults, refusals and the state after reset. -/

namespace Sys2Proof.Machine

open Sys2Proof

/-- The flags and the deadline timer of one slot (10_state.md R23 to R26). The slot's buffer stands in the
slot-buffer space, `State.mem`. -/
structure SlotRegs where
  /-- 1 while a caller holds a reference to the slot (R23). -/
  used : Bool
  /-- 1 while a reply is outstanding (R24). -/
  pending : Bool
  /-- 1 when the last pending period ended by a complete frame (R25). -/
  rcvd : Bool
  /-- 1 while the deadline timer runs (R26). -/
  tmrArmed : Bool
  /-- The value of `now` when the timer was armed (R26). -/
  tmrStart : Time
deriving DecidableEq, Repr

/-- The slot-buffer space (20_memory.md R40) as a list of cells in one canonical form, see `Memory.wf`. -/
abbrev Memory := List Host.Cell

/-- What an address not listed in `Memory` reads as: the reset content 0x00 (10_state.md R34). -/
def unlistedByte : Byte := 0x00

/-- The canonical form: addresses strictly rising, and no cell that holds what an unlisted address reads as. -/
abbrev Memory.wf (m : Memory) : Prop :=
  m.Pairwise (fun c d => c.1 < d.1) ∧ ∀ c ∈ m, c.2 ≠ unlistedByte

/-- What the environment can do between two operations (00_scope.md R14). -/
inductive Input
  /-- The caller puts bytes on the request port (30_encoding.md R60, R66). -/
  | requestBytes (bytes : List Byte)
  /-- The device's bytes arrive at the transport's receive side (20_memory.md R46): the bytes the transport kept. -/
  | deviceBytes (bytes : List Byte)
  /-- The clock advances by any number of milliseconds (10_state.md R31). -/
  | clockAdvance (ms : Nat)
  /-- The platform asserts and releases reset (70_reset_and_hazards.md R160). -/
  | assertReset
deriving DecidableEq, Repr

/-- The machine: block, environment and operation interface. -/
structure State where
  /-- Slot 0, Standard (10_state.md R20, R21). -/
  standard : SlotRegs
  /-- Slot 1, Confirmation. -/
  confirmation : SlotRegs
  /-- Slot 2, Error-log. -/
  errorLog : SlotRegs
  /-- Slot 3, Display. -/
  display : SlotRegs
  /-- The four slot buffers (10_state.md R22, 20_memory.md R40). -/
  mem : Memory
  /-- The reference to the last issued slot, or none (10_state.md R27). -/
  current : Option SlotId
  /-- Environment: unread received bytes, oldest first (10_state.md R30). -/
  rx : List Byte
  /-- Environment: every byte the block has written (10_state.md R30). -/
  tx : List Byte
  /-- Environment: the millisecond clock (10_state.md R31). -/
  now : Time
  /-- Model's own: request bytes received and not yet executed, oldest first (log entry 1). -/
  req : List Byte
  /-- Model's own: the results answered so far, oldest first (log entry 2). -/
  out : List (List Byte)
  /-- Model's own: the environment events still to land, in order (log entry 3). -/
  inputs : List Input
deriving DecidableEq, Repr

/-- No constructor: "The block raises no exception, trap or fault" (60_exceptions.md R140). Nothing raises a fault,
so none is safe or unsafe. -/
inductive Fault
deriving DecidableEq, Repr

/-- Why a step has no next state. -/
inductive Refusal
  /-- An operation without a meaning here. Raised by no arm of this model; safe (the machine stops). -/
  | notModelled (mnemonic : String)
  /-- Raised by `step` alone: the port holds no whole request (30_encoding.md R66, "no step, no result") and no
  environment event is left to land. Safe: the machine waits where the hardware waits. -/
  | requestIncomplete
deriving DecidableEq, Repr

/-- What a meaning answers. -/
abbrev Answer := Host.Outcome State Fault Refusal

/-- A slot at reset: Idle, timer stopped, start value 0 (10_state.md R34). -/
def SlotRegs.reset : SlotRegs :=
  { used := false, pending := false, rcvd := false, tmrArmed := false, tmrStart := 0 }

/-- The machine right after reset: the block as 10_state.md R34 says. Reset touches neither the transport nor the
clock (R33), so the environment's values here are the model's choice: nothing received, nothing sent, clock 0
(DESIGN CHOICE, unsafe, log entry 5); nothing requested, answered or scheduled (log entries 1 to 3). -/
def State.reset : State :=
  { standard := SlotRegs.reset
    confirmation := SlotRegs.reset
    errorLog := SlotRegs.reset
    display := SlotRegs.reset
    mem := []
    current := none
    rx := []
    tx := []
    now := 0
    req := []
    out := []
    inputs := [] }

end Sys2Proof.Machine
end

