-- ==== Sys2Proof/Machine/Ops.lean ====
section
/-! DEFINITION. The named operations over the state: the slot-buffer space (20_memory.md R40), the transport
primitives (R45), the slots and their timers (42_receive_fsm.md R102), Acquire, Timeout, Complete, Abort, Release,
answering a result, reset and the environment's inputs. There is no taking of an exception and no return from one:
the block has neither (60_exceptions.md R140, R145). -/

namespace Sys2Proof.Machine

open Sys2Proof

/-! ### The slot-buffer space -/

/-- The byte an address holds: its cell, else the byte of an unlisted address. -/
def Memory.read : Memory → Nat → Byte
  | [], _ => unlistedByte
  | c :: m, a => if c.1 = a then c.2 else Memory.read m a

/-- The memory without any cell at an address. -/
def Memory.erase (m : Memory) (a : Nat) : Memory := m.filter (fun c => c.1 ≠ a)

/-- A cell put before the first cell of a higher address. -/
def Memory.insert : Memory → Nat → Byte → Memory
  | [], a, v => [(a, v)]
  | c :: m, a, v => if a < c.1 then (a, v) :: c :: m else c :: Memory.insert m a v

/-- The memory with one byte written. Writing what an unlisted address reads as removes the cell, so equal contents
are equal lists. -/
def Memory.write (m : Memory) (a : Nat) (v : Byte) : Memory :=
  if v = unlistedByte then m.erase a else (m.erase a).insert a v

/-- The cell of address `(k, i)` (20_memory.md R40). The flat number is the model's (log entry 6); a byte index is
below 256, so different addresses have different cells. -/
def slotAddr (k : SlotId) (i : Nat) : Nat := 256 * k.index + i

/-- `MemRead((k, i), 1)` (20_memory.md R40). -/
def State.memRead (s : State) (k : SlotId) (i : Nat) : Byte := s.mem.read (slotAddr k i)

/-- `MemWrite((k, i), 1, v)` (20_memory.md R40). -/
def State.memWrite (s : State) (k : SlotId) (i : Nat) (v : Byte) : State :=
  { s with mem := s.mem.write (slotAddr k i) v }

/-- The whole buffer of slot k, byte 0 first. -/
def State.bufBytes (s : State) (k : SlotId) : List Byte := (List.range k.size).map (s.memRead k)

/-- MemWrite of 0x00 to `n` bytes of slot k from byte `i` on. -/
def State.zeroFrom (k : SlotId) : Nat → Nat → State → State
  | _, 0, s => s
  | i, n + 1, s => State.zeroFrom k (i + 1) n (s.memWrite k i 0x00)

/-- Zero the whole buffer of slot k (42_receive_fsm.md R104, 44_controller.md R121). -/
def State.zeroBuffer (s : State) (k : SlotId) : State := State.zeroFrom k 0 k.size s

/-! ### The transport (20_memory.md R45) -/

/-- `RxAvail()`. -/
def State.rxAvail (s : State) : Nat := s.rx.length

/-- `RxRead()`: the oldest unread byte and the state without it. None on an empty stream, which no operation reads
(R45). -/
def State.rxRead (s : State) : Option (Byte × State) :=
  match s.rx with
  | [] => none
  | b :: rest => some (b, { s with rx := rest })

/-- `RxFlush()`. -/
def State.rxFlush (s : State) : State := { s with rx := [] }

/-- `TxWrite(xs)`; the count it returns is ignored by the block and not modelled (R47, log entry 8). -/
def State.txWrite (s : State) (xs : List Byte) : State := { s with tx := s.tx ++ xs }

/-- RxRead into `n` bytes of slot k from byte `i` on, oldest byte first. The stream holds enough bytes whenever it is
called (R45); were it to run dry, the rest would stay unwritten (log entry 12). -/
def State.receiveFrom (k : SlotId) : Nat → Nat → State → State
  | _, 0, s => s
  | i, n + 1, s =>
    match s.rxRead with
    | none => s
    | some (b, t) => State.receiveFrom k (i + 1) n (t.memWrite k i b)

/-! ### Slots and timers -/

/-- `S.slot[k]`, but for its buffer. -/
def State.slot (s : State) : SlotId → SlotRegs
  | .standard => s.standard
  | .confirmation => s.confirmation
  | .errorLog => s.errorLog
  | .display => s.display

/-- `S.slot[k] <- r`, but for its buffer. -/
def State.setSlot (s : State) (k : SlotId) (r : SlotRegs) : State :=
  match k with
  | .standard => { s with standard := r }
  | .confirmation => { s with confirmation := r }
  | .errorLog => { s with errorLog := r }
  | .display => { s with display := r }

/-- `S.current <- c`. -/
def State.setCurrent (s : State) (c : Option SlotId) : State := { s with current := c }

/-- `TimerStart(k)` (42_receive_fsm.md R102). -/
def State.timerStart (s : State) (k : SlotId) : State :=
  s.setSlot k { s.slot k with tmrArmed := true, tmrStart := s.now }

/-- `TimerStop(k)` (42_receive_fsm.md R102): `tmr_start` keeps its value. -/
def State.timerStop (s : State) (k : SlotId) : State :=
  s.setSlot k { s.slot k with tmrArmed := false }

/-- The end of a pending period: `pending <- 0`, `rcvd` as given, TimerStop (42_receive_fsm.md R104 to R106). -/
def State.settle (s : State) (k : SlotId) (received : Bool) : State :=
  (s.setSlot k { s.slot k with pending := false, rcvd := received }).timerStop k

/-- `Timeout(k)` (42_receive_fsm.md R104). -/
def State.timeout (s : State) (k : SlotId) : State := (s.rxFlush.zeroBuffer k).settle k false

/-- `Complete(k)` (42_receive_fsm.md R105). -/
def State.complete (s : State) (k : SlotId) : State := (State.receiveFrom k 0 k.size s).settle k true

/-- `Abort(k)` (42_receive_fsm.md R106): the buffer is left as it is. -/
def State.abort (s : State) (k : SlotId) : State := s.rxFlush.settle k false

/-- `Acquire(k)` (44_controller.md R121). -/
def State.acquire (s : State) (k : SlotId) : State :=
  (((s.setSlot k { s.slot k with used := true, pending := true, rcvd := false }).timerStop k).zeroBuffer k).setCurrent
    (some k)

/-- The effect of RELEASE on a slot that is not pending (44_controller.md R129). -/
def State.releaseSlot (s : State) (k : SlotId) : State :=
  (s.setSlot k { s.slot k with used := false }).setCurrent (if s.current = some k then none else s.current)

/-! ### The operation interface -/

/-- Return a result (30_encoding.md R62): it joins the answers given so far. -/
def State.answer (s : State) (result : List Byte) : State := { s with out := s.out ++ [result] }

/-- Return a result that is a status byte alone, or a status byte and values (30_encoding.md R62, R70). -/
def State.reply (s : State) (status : Status) (values : List Byte) : State := s.answer (status.code :: values)

/-- An illegal request: `[ILLEGAL]`, nothing else changed, no transport call (30_encoding.md R64, R65). -/
def State.replyIllegal (s : State) : State := s.reply .illegal []

/-- The request bytes still to execute. -/
def State.withReq (s : State) (bytes : List Byte) : State := { s with req := bytes }

/-- The environment events still to land. -/
def State.withInputs (s : State) (inputs : List Input) : State := { s with inputs := inputs }

/-! ### Reset and the environment -/

/-- The reset input (10_state.md R33, 70_reset_and_hazards.md R160, R161): the block takes the values of R34; the
transport and the clock keep theirs, and so do the request port, the answers given and the events still to land,
which are no block state (log entry 7). -/
def State.assertReset (s : State) : State :=
  { State.reset with rx := s.rx, tx := s.tx, now := s.now, req := s.req, out := s.out, inputs := s.inputs }

/-- One environment event lands (00_scope.md R14). -/
def State.land (s : State) : Input → State
  | .requestBytes bytes => { s with req := s.req ++ bytes }
  | .deviceBytes bytes => { s with rx := s.rx ++ bytes }
  | .clockAdvance ms => { s with now := s.now + BitVec.ofNat 32 ms }
  | .assertReset => s.assertReset

end Sys2Proof.Machine
end

