-- ==== Sys2Proof/Machine/Operands.lean ====
section
/-! DEFINITION. The operand forms: slot ids and byte indices with their domains (30_encoding.md R65), the command ids
and their classes (R69), inclusive ranges of a byte sequence (00_scope.md R12), and values as result bytes. -/

namespace Sys2Proof

/-- The slot an operand byte names; none for 4 to 255 (10_state.md R21, 30_encoding.md R65). -/
def SlotId.ofByte (k : Byte) : Option SlotId :=
  if k = 0 then some .standard
  else if k = 1 then some .confirmation
  else if k = 2 then some .errorLog
  else if k = 3 then some .display
  else none

/-- The slot a command's response goes to (30_encoding.md R69). -/
def CmdId.slot : CmdId → SlotId
  | .readFrontPanel => .standard
  | .writeFrontPanel => .confirmation
  | .readSystemReg => .standard
  | .writeSystemReg => .confirmation
  | .readTimerReg => .standard
  | .writeTimerReg => .confirmation
  | .readRegExtra => .standard
  | .writeRegExtra => .confirmation
  | .readDisplay => .display
  | .readLastError => .errorLog
  | .readPrevError => .errorLog
  | .readFwVersion => .standard

namespace Machine

/-- The read-register class (30_encoding.md R69), the domain of RD_REG's `cmd` (R65). -/
def readRegisterIds : List CmdId := [.readFrontPanel, .readSystemReg, .readTimerReg, .readRegExtra]

/-- The write-register class (30_encoding.md R69), the domain of WR_REG's `cmd` (R65). -/
def writeRegisterIds : List CmdId := [.writeFrontPanel, .writeSystemReg, .writeTimerReg, .writeRegExtra]

/-- The byte is the value of one of the listed command ids. -/
def isIdOf (ids : List CmdId) (cmd : Byte) : Bool := ids.any (fun c => Config.cmdId c == cmd)

/-- An operation on the slot an operand names: `[ILLEGAL]` and nothing else where it names none
(30_encoding.md R65). -/
def State.onSlot (s : State) (k : Byte) (run : SlotId → State) : State :=
  match SlotId.ofByte k with
  | none => s.replyIllegal
  | some j => run j

/-- `xs[lo..hi]`, inclusive of both ends, empty when hi < lo (00_scope.md R12). -/
def slice (xs : List Byte) (lo hi : Nat) : List Byte := (xs.drop lo).take (hi + 1 - lo)

/-- A flag as a result byte: 1 or 0. -/
def bitByte (b : Bool) : Byte := if b then 1 else 0

/-- A 16-bit value as result bytes, big-endian (20_memory.md R43). -/
def halfBytes (v : Half) : List Byte := [hiByte v, loByte v]

end Machine

end Sys2Proof
end

