-- ==== Sys2Proof/Machine/Checksum.lean ====
section
/-! DEFINITION. The checksum unit (40_checksum.md): CSUM and CHKFRAME. -/

namespace Sys2Proof.Machine

open Sys2Proof

/-- The validation rule of 40_checksum.md R81 for a frame of any length: the last byte is the checksum of bytes
1 to n-2. False below two bytes, where no checksum byte is present (R83). -/
def checksumMatches (xs : List Byte) : Bool :=
  decide (2 ≤ xs.length) && (xs[xs.length - 1]? == some (Config.checksum (slice xs 1 (xs.length - 2))))

/-- CSUM (40_checksum.md R82). -/
def execCsum (bytes : List Byte) (s : State) : Answer := .next (s.reply .ok [Config.checksum bytes])

/-- CHKFRAME (40_checksum.md R83). -/
def execChkframe (bytes : List Byte) (s : State) : Answer := .next (s.reply .ok [bitByte (checksumMatches bytes)])

end Sys2Proof.Machine
end

