-- ==== Sys2Proof/Machine/Codec.lean ====
section
/-! DEFINITION. The frame codec (41_frame_codec.md): the splitter, the joiner, the frame encoder; ENCODE and
DECODE16. -/

namespace Sys2Proof.Machine

open Sys2Proof

/-- `Split16(v)` (41_frame_codec.md R90): the groups g2, g1, g0 of 2, 7 and 7 bits, most significant first. -/
def split16 (v : Half) : List Byte :=
  [((v >>> 14) &&& 0x03#16).setWidth 8, ((v >>> 7) &&& 0x7F#16).setWidth 8, (v &&& 0x7F#16).setWidth 8]

/-- `Join16(g2, g1, g0)` (41_frame_codec.md R91): bits outside a group's field are ignored. -/
def join16 (g2 g1 g0 : Byte) : Half :=
  ((g2.setWidth 16 &&& 0x0003#16) <<< 14) ||| ((g1.setWidth 16 &&& 0x007F#16) <<< 7) ||| (g0.setWidth 16 &&& 0x007F#16)

/-- `EncodeFrame(dev, cmd, reg, data)` (41_frame_codec.md R92): the 9 bytes of 30_encoding.md R67. -/
def encodeFrame (dev cmd : Byte) (reg data : Half) : List Byte :=
  [dev, cmd] ++ (split16 reg ++ split16 data) ++ [Config.checksum (split16 reg ++ split16 data)]

/-- ENCODE (41_frame_codec.md R92). -/
def execEncode (dev cmd : Byte) (reg data : Half) (s : State) : Answer :=
  .next (s.reply .ok (encodeFrame dev cmd reg data))

/-- DECODE16 (41_frame_codec.md R93). -/
def execDecode16 (g2 g1 g0 : Byte) (s : State) : Answer := .next (s.reply .ok (halfBytes (join16 g2 g1 g0)))

end Sys2Proof.Machine
end

