-- ==== Sys2Proof/Machine/Flags.lean ====
section
/-! DEFINITION. What is computed from the flags and not stored: Elapsed (42_receive_fsm.md R101), Valid
(43_responses.md R110), Busy (44_controller.md R120), the receive machine's state (42_receive_fsm.md R100) and the
virtual status byte (10_state.md section 6). -/

namespace Sys2Proof.Machine

open Sys2Proof

/-- `Elapsed(k)` (42_receive_fsm.md R101): the armed timer has run for at least TIMEOUT_MS, modulo 2^32. -/
def State.elapsed (s : State) (k : SlotId) : Bool :=
  (s.slot k).tmrArmed && decide (timeoutMs ≤ (s.now - (s.slot k).tmrStart).toNat)

/-- `Valid(k)` (43_responses.md R110). -/
def State.valid (s : State) (k : SlotId) : Bool :=
  !(s.slot k).pending && (s.slot k).rcvd && (k == .confirmation || checksumMatches (s.bufBytes k))

/-- Some slot is pending. -/
def State.anyPending (s : State) : Bool :=
  s.standard.pending || s.confirmation.pending || s.errorLog.pending || s.display.pending

/-- `Busy(k)` under a given arbitration policy (44_controller.md R120). -/
def State.busyUnder (s : State) (k : SlotId) : ArbPolicy → Bool
  | .untilRelease => s.current.isSome
  | .pendingOnly => s.anyPending || (s.slot k).used

/-- `Busy(k)` (44_controller.md R120) under the block's policy, an open parameter (00_scope.md R7). -/
def State.busy (s : State) (k : SlotId) : Bool := s.busyUnder k Config.arbPolicy

/-- The states of a slot's receive machine (42_receive_fsm.md R100). -/
inductive RxPhase
  | idle
  | awaitingTimeoutStart
  | pending
  | complete
  | timedOut
deriving DecidableEq, Repr

/-- The state of the receive machine, read off the flags (42_receive_fsm.md R100). A pending slot is used in every
state the rules keep (10_state.md R28), so the order of the tests does not matter there (log entry 13). -/
def SlotRegs.phase (r : SlotRegs) : RxPhase :=
  if r.pending then (if r.tmrArmed then .pending else .awaitingTimeoutStart)
  else if r.used then (if r.rcvd then .complete else .timedOut)
  else .idle

/-- The virtual status byte of 10_state.md section 6, which no operation reads as a byte: used, pending, valid, rcvd
and tmr_armed in bits 0 to 4; bits 7:5 are shown as 0 (log entry 13). -/
def State.statusByte (s : State) (k : SlotId) : Byte :=
  bitByte (s.slot k).used ||| (bitByte (s.slot k).pending <<< 1) ||| (bitByte (s.valid k) <<< 2)
    ||| (bitByte (s.slot k).rcvd <<< 3) ||| (bitByte (s.slot k).tmrArmed <<< 4)

end Sys2Proof.Machine
end

