-- ==== Sys2Proof/Machine/Controller.lean ====
section
/-! DEFINITION. The slot arbiter and command issue (44_controller.md): the issue operations, RELEASE, the status
reads, READ_BUF and NOP. -/

namespace Sys2Proof.Machine

open Sys2Proof

/-- `Issue(k, cmd, reg, data)` (44_controller.md R122): turned away with BUSY and nothing changed, or the frame sent,
the slot acquired and its id answered. The receive side is not flushed. -/
def State.issue (s : State) (k : SlotId) (cmd : Byte) (reg data : Half) : State :=
  if s.busy k then s.reply .busy []
  else ((s.txWrite (encodeFrame Config.devAddr cmd reg data)).acquire k).reply .ok [k.byte]

/-- RD_REG (44_controller.md R123): the operand's domain is checked before Busy (30_encoding.md R65). -/
def execRdReg (cmd : Byte) (reg : Half) (s : State) : Answer :=
  .next (if isIdOf readRegisterIds cmd then s.issue .standard cmd reg 0x0000 else s.replyIllegal)

/-- WR_REG (44_controller.md R124). -/
def execWrReg (cmd : Byte) (reg data : Half) (s : State) : Answer :=
  .next (if isIdOf writeRegisterIds cmd then s.issue .confirmation cmd reg data else s.replyIllegal)

/-- RD_LAST_ERR (44_controller.md R125). -/
def execRdLastErr (s : State) : Answer := .next (s.issue .errorLog (Config.cmdId .readLastError) 0x0000 0x0000)

/-- RD_PREV_ERR (44_controller.md R126). -/
def execRdPrevErr (s : State) : Answer := .next (s.issue .errorLog (Config.cmdId .readPrevError) 0x0000 0x0000)

/-- RD_VERSION (44_controller.md R127). -/
def execRdVersion (s : State) : Answer := .next (s.issue .standard (Config.cmdId .readFwVersion) 0x0000 0x0000)

/-- RD_DISPLAY (44_controller.md R128). -/
def execRdDisplay (reg : Half) (s : State) : Answer :=
  .next (s.issue .display (Config.cmdId .readDisplay) reg 0x0000)

/-- RELEASE (44_controller.md R129): a pending slot is not released. -/
def execRelease (k : Byte) (s : State) : Answer :=
  .next (s.onSlot k (fun j =>
    if (s.slot j).pending then s.reply .refusedPending [] else (s.releaseSlot j).reply .ok []))

/-- IS_USED (44_controller.md R130). -/
def execIsUsed (k : Byte) (s : State) : Answer :=
  .next (s.onSlot k (fun j => s.reply .ok [bitByte (s.slot j).used]))

/-- IS_PENDING (44_controller.md R131). -/
def execIsPending (k : Byte) (s : State) : Answer :=
  .next (s.onSlot k (fun j => s.reply .ok [bitByte (s.slot j).pending]))

/-- READ_BUF (44_controller.md R132): illegal for a slot id or a byte index outside its domain. -/
def execReadBuf (k i : Byte) (s : State) : Answer :=
  .next (s.onSlot k (fun j => if i.toNat < j.size then s.reply .ok [s.memRead j i.toNat] else s.replyIllegal))

/-- NOP (44_controller.md R133). -/
def execNop (s : State) : Answer := .next (s.reply .ok [])

end Sys2Proof.Machine
end

