-- ==== Sys2Proof/Machine/Receive.lean ====
section
/-! DEFINITION. The receive state machine (42_receive_fsm.md): POLL. -/

namespace Sys2Proof.Machine

open Sys2Proof

/-- The receive machine of slot k evaluated once, rules in priority order (42_receive_fsm.md R103 steps 1 to 6,
60_exceptions.md R143). Step 2 is unreachable, every size being at least 1 (R106). -/
def State.pollSlot (s : State) (k : SlotId) : State :=
  if !(s.slot k).pending then s
  else if k.size = 0 then s.abort k
  else if !(s.slot k).tmrArmed then s.timerStart k
  else if s.elapsed k then s.timeout k
  else if k.size ≤ s.rxAvail then s.complete k
  else s

/-- POLL drives the slot of `S.current` only (42_receive_fsm.md R103). -/
def State.pollCurrent (s : State) : State :=
  match s.current with
  | none => s
  | some k => s.pollSlot k

/-- POLL (42_receive_fsm.md R103): always OK. -/
def execPoll (s : State) : Answer := .next (s.pollCurrent.reply .ok [])

end Sys2Proof.Machine
end

