-- ==== Sys2Proof/Machine/Responses.lean ====
section
/-! DEFINITION. The response validator and payload decoder (43_responses.md). Every accessor decodes the raw buffer
whatever the slot's state (R119). -/

namespace Sys2Proof.Machine

open Sys2Proof

/-- `Nib2(hi, lo)` (43_responses.md R113): the low four bits of two bytes, the first one high. -/
def nib2 (hi lo : Byte) : Byte := ((hi &&& 0x0F#8) <<< 4) ||| (lo &&& 0x0F#8)

/-- `n` characters of nibble pairs of slot k from byte `at0` on (43_responses.md R115, R116). -/
def State.nibbleChars (s : State) (k : SlotId) (at0 n : Nat) : List Byte :=
  (List.range n).map (fun i => nib2 (s.memRead k (at0 + 2 * i)) (s.memRead k (at0 + 1 + 2 * i)))

/-- IS_VALID (43_responses.md R110). -/
def execIsValid (k : Byte) (s : State) : Answer :=
  .next (s.onSlot k (fun j => s.reply .ok [bitByte (s.valid j)]))

/-- GET_DEVADDR (43_responses.md R111). -/
def execGetDevaddr (k : Byte) (s : State) : Answer :=
  .next (s.onSlot k (fun j => s.reply .ok [s.memRead j 0]))

/-- GET_VALUE (43_responses.md R112). -/
def execGetValue (s : State) : Answer :=
  .next (s.reply .ok (halfBytes (join16 (s.memRead .standard 1) (s.memRead .standard 2) (s.memRead .standard 3))))

/-- GET_ERR_ID (43_responses.md R114). -/
def execGetErrId (s : State) : Answer :=
  .next (s.reply .ok [nib2 (s.memRead .errorLog 1) (s.memRead .errorLog 2)])

/-- GET_ERR_LOG (43_responses.md R115): NUL characters are kept. -/
def execGetErrLog (s : State) : Answer := .next (s.reply .ok (s.nibbleChars .errorLog 3 errlogChars))

/-- The characters of the Display response that are not NUL (43_responses.md R116). -/
def State.displayText (s : State) : List Byte := (s.nibbleChars .display 1 dispChars).filter (fun c => c ≠ 0x00)

/-- GET_DISPLAY (43_responses.md R116): NUL characters are omitted, the count comes first. -/
def execGetDisplay (s : State) : Answer :=
  .next (s.reply .ok (BitVec.ofNat 8 s.displayText.length :: s.displayText))

end Sys2Proof.Machine
end

