-- ==== Sys2Proof/Machine/Dispatch.lean ====
section
/-! DEFINITION. The meaning of every instruction, one arm each. -/

namespace Sys2Proof.Machine

open Sys2Proof

def exec (i : Instr) (s : State) : Host.Outcome State Fault Refusal :=
  match i with
  | .nop => Sys2Proof.Machine.execNop s
  | .csum bytes => Sys2Proof.Machine.execCsum bytes s
  | .chkframe bytes => Sys2Proof.Machine.execChkframe bytes s
  | .encode dev cmd reg data => Sys2Proof.Machine.execEncode dev cmd reg data s
  | .decode16 g2 g1 g0 => Sys2Proof.Machine.execDecode16 g2 g1 g0 s
  | .rdReg cmd reg => Sys2Proof.Machine.execRdReg cmd reg s
  | .wrReg cmd reg data => Sys2Proof.Machine.execWrReg cmd reg data s
  | .rdLastErr => Sys2Proof.Machine.execRdLastErr s
  | .rdPrevErr => Sys2Proof.Machine.execRdPrevErr s
  | .rdVersion => Sys2Proof.Machine.execRdVersion s
  | .rdDisplay reg => Sys2Proof.Machine.execRdDisplay reg s
  | .poll => Sys2Proof.Machine.execPoll s
  | .release k => Sys2Proof.Machine.execRelease k s
  | .isUsed k => Sys2Proof.Machine.execIsUsed k s
  | .isPending k => Sys2Proof.Machine.execIsPending k s
  | .isValid k => Sys2Proof.Machine.execIsValid k s
  | .getDevaddr k => Sys2Proof.Machine.execGetDevaddr k s
  | .readBuf k j => Sys2Proof.Machine.execReadBuf k j s
  | .getValue => Sys2Proof.Machine.execGetValue s
  | .getErrId => Sys2Proof.Machine.execGetErrId s
  | .getErrLog => Sys2Proof.Machine.execGetErrLog s
  | .getDisplay => Sys2Proof.Machine.execGetDisplay s

end Sys2Proof.Machine
end

