-- ==== Sys2Proof/Machine/Step.lean ====
section
/-! DEFINITION. One step of the machine. A whole request on the port runs; an unassigned opcode is answered
(30_encoding.md R64); while the port holds no whole request (R66), the next environment event lands
(00_scope.md R14); with none left the machine waits. -/

namespace Sys2Proof.Machine

open Sys2Proof

/-- One step (log entry 3). -/
def step (s : State) : Host.Outcome State Fault Refusal :=
  match decode s.req with
  | .request i rest => exec i (s.withReq rest)
  | .illegal _ rest => .next (s.withReq rest).replyIllegal
  | .incomplete =>
    match s.inputs with
    | [] => .refused .requestIncomplete
    | e :: later => .next ((s.withInputs later).land e)

/-- The state with the request of a table word put at the front of the request port, exactly its bytes, so that the
next step runs it (log entry 11). -/
def State.withFetchWord (s : State) (nbits w : Nat) : State := s.withReq (tableRequest nbits w ++ s.req)

end Sys2Proof.Machine
end

