-- ==== Sys2Proof/Safety.lean ====
section
/-! DEFINITION. The terms in which claims about the machine are stated: the invariants of 10_state.md R28, the
slot-buffer space's form, the wire layouts field by field, and what an issue or a poll leaves unchanged. -/

namespace Sys2Proof.Machine

open Sys2Proof

/-! ### Invariants -/

/-- The invariants (a) to (d) of 10_state.md R28. -/
structure SlotInvariants (s : State) : Prop where
  /-- (a) A pending slot is used. -/
  pendingUsed : ∀ k, (s.slot k).pending = true → (s.slot k).used = true
  /-- (b) At most one slot is pending. -/
  onePending : ∀ j k, (s.slot j).pending = true → (s.slot k).pending = true → j = k
  /-- (c) A pending slot is the current one. -/
  pendingCurrent : ∀ k, (s.slot k).pending = true → s.current = some k
  /-- (d) An armed timer belongs to a pending slot. -/
  armedPending : ∀ k, (s.slot k).tmrArmed = true → (s.slot k).pending = true

/-- The slot-buffer space is in canonical form and lists addresses of the space only (20_memory.md R40). -/
structure BufferSpace (s : State) : Prop where
  /-- Addresses strictly rising, no cell equal to what an unlisted address reads as. -/
  canonical : s.mem.wf
  /-- Every listed address is a `(k, i)` with `i < N_k`. -/
  inSpace : ∀ c ∈ s.mem, ∃ k i, i < SlotId.size k ∧ c.1 = slotAddr k i

/-- A used slot is the current one: what UNTIL_RELEASE keeps (44_controller.md R134). -/
def HeldUntilRelease (s : State) : Prop := ∀ k, (s.slot k).used = true → s.current = some k

/-- What the block's own arbitration policy keeps: under UNTIL_RELEASE the claim of 44_controller.md R134, under
PENDING_ONLY nothing beyond 10_state.md R28. -/
def PolicyInvariant (s : State) : Prop :=
  match Config.arbPolicy with
  | .untilRelease => HeldUntilRelease s
  | .pendingOnly => True

/-- A step that is safe: it answers a next state, or the machine waits for request bytes (30_encoding.md R66). -/
def SafeStep (s : State) : Prop :=
  (∃ t, step s = .next t) ∨ (step s = .refused .requestIncomplete ∧ decode s.req = .incomplete ∧ s.inputs = [])

/-! ### Wire layouts, field by field -/

/-- A 16-bit field on the wire (30_encoding.md R67): bits 15:14, 13:7 and 6:0, each zero-extended to a byte. -/
def wireGroups (v : Half) : List Byte :=
  [(v.extractLsb' 14 2).setWidth 8, (v.extractLsb' 7 7).setWidth 8, (v.extractLsb' 0 7).setWidth 8]

/-- The 9-byte command frame (30_encoding.md R67). -/
def wireFrame (dev cmd : Byte) (reg data : Half) : List Byte :=
  dev :: cmd :: (wireGroups reg ++ wireGroups data ++ [Config.checksum (wireGroups reg ++ wireGroups data)])

/-- `v` has bits 15:14 from g2, 13:7 from g1 and 6:0 from g0, the other bits of the groups ignored
(20_memory.md R42, 41_frame_codec.md R91). -/
def IsJoined (v : Half) (g2 g1 g0 : Byte) : Prop :=
  v.extractLsb' 14 2 = g2.extractLsb' 0 2 ∧ v.extractLsb' 7 7 = g1.extractLsb' 0 7 ∧
    v.extractLsb' 0 7 = g0.extractLsb' 0 7

/-- `v` has its high nibble from the low nibble of hi and its low nibble from that of lo (43_responses.md R113). -/
def IsNibblePair (v hi lo : Byte) : Prop :=
  v.extractLsb' 4 4 = hi.extractLsb' 0 4 ∧ v.extractLsb' 0 4 = lo.extractLsb' 0 4

/-! ### What an operation changes and what it leaves -/

/-- The slot an issue operation targets (30_encoding.md R69); none for every other operation. -/
def issueSlot : Instr → Option SlotId
  | .nop => none
  | .csum _ => none
  | .chkframe _ => none
  | .encode _ _ _ _ => none
  | .decode16 _ _ _ => none
  | .rdReg _ _ => some .standard
  | .wrReg _ _ _ => some .confirmation
  | .rdLastErr => some .errorLog
  | .rdPrevErr => some .errorLog
  | .rdVersion => some .standard
  | .rdDisplay _ => some .display
  | .poll => none
  | .release _ => none
  | .isUsed _ => none
  | .isPending _ => none
  | .isValid _ => none
  | .getDevaddr _ => none
  | .readBuf _ _ => none
  | .getValue => none
  | .getErrId => none
  | .getErrLog => none
  | .getDisplay => none

/-- The other slots, and every byte outside slot k's buffer, are unchanged. -/
structure OnlySlot (s t : State) (k : SlotId) : Prop where
  /-- No other slot's flags or timer change. -/
  otherSlots : ∀ j, j ≠ k → t.slot j = s.slot j
  /-- Every address but the bytes of slot k's buffer reads as before. -/
  otherBytes : ∀ a, (∀ i, i < k.size → a ≠ slotAddr k i) → t.mem.read a = s.mem.read a

/-- An accepted issue (44_controller.md R121, R122): the frame is sent, the slot is acquired, its id is answered, and
nothing else changes. -/
structure Issued (s t : State) (k : SlotId) (frame : List Byte) : Prop where
  /-- The slot is used and pending, not received, its timer stopped with its start value kept. -/
  slotTaken : t.slot k =
    { used := true, pending := true, rcvd := false, tmrArmed := false, tmrStart := (s.slot k).tmrStart }
  /-- Its buffer reads zero. -/
  bufferZero : ∀ i, i < k.size → t.memRead k i = 0
  /-- Nothing of another slot changes. -/
  only : OnlySlot s t k
  /-- The reference points to the slot. -/
  current : t.current = some k
  /-- The frame is appended to what was sent. -/
  sent : t.tx = s.tx ++ frame
  /-- The receive side is not flushed. -/
  rx : t.rx = s.rx
  /-- The clock is not read or changed. -/
  now : t.now = s.now
  /-- The request port is as before. -/
  req : t.req = s.req
  /-- The environment's events are as before. -/
  inputs : t.inputs = s.inputs
  /-- The answer is OK and the slot's id. -/
  answered : t.out = s.out ++ [[0x00, k.byte]]

/-- What a POLL that drives slot k leaves unchanged, and its answer (42_receive_fsm.md R103). -/
structure PollFrame (s t : State) (k : SlotId) : Prop where
  /-- Nothing of another slot changes. -/
  only : OnlySlot s t k
  /-- `used` is never changed. -/
  used : (t.slot k).used = (s.slot k).used
  /-- `S.current` is never changed. -/
  current : t.current = s.current
  /-- Nothing is sent. -/
  tx : t.tx = s.tx
  /-- The clock is read, not changed. -/
  now : t.now = s.now
  /-- The request port is as before. -/
  req : t.req = s.req
  /-- The environment's events are as before. -/
  inputs : t.inputs = s.inputs
  /-- The answer is OK alone. -/
  answered : t.out = s.out ++ [[0x00]]

/-- When the caller may trust slot k's response (43_responses.md R118): IS_VALID returns 1 and GET_DEVADDR returns
HOST_ADDR. -/
def callerAccepts (s : State) (k : SlotId) : Prop :=
  (∃ t, exec (.isValid k.byte) s = .next t ∧ t.out = s.out ++ [[0x00, 0x01]]) ∧
    (∃ t, exec (.getDevaddr k.byte) s = .next t ∧ t.out = s.out ++ [[0x00, Config.hostAddr]])

end Sys2Proof.Machine
end

