-- ==== Sys2Proof/WellFormed.lean ====
section
/-! DEFINITION. Which instructions are requests the port can carry: format FL counts its bytes in one byte n
(30_encoding.md R60), so its list has at most 255 bytes. Every other operand is held at its exact width. -/

namespace Sys2Proof

/-- The check: the operands fit the fields of the instruction's format (30_encoding.md R60). -/
def Instr.wellFormed : Instr → Bool
  | .nop => true
  | .csum bytes => decide (bytes.length ≤ 255)
  | .chkframe bytes => decide (bytes.length ≤ 255)
  | .encode _ _ _ _ => true
  | .decode16 _ _ _ => true
  | .rdReg _ _ => true
  | .wrReg _ _ _ => true
  | .rdLastErr => true
  | .rdPrevErr => true
  | .rdVersion => true
  | .rdDisplay _ => true
  | .poll => true
  | .release _ => true
  | .isUsed _ => true
  | .isPending _ => true
  | .isValid _ => true
  | .getDevaddr _ => true
  | .readBuf _ _ => true
  | .getValue => true
  | .getErrId => true
  | .getErrLog => true
  | .getDisplay => true

/-- The instruction is a request the port can carry. -/
abbrev Instr.WellFormed (i : Instr) : Prop := i.wellFormed = true

end Sys2Proof
end

