-- ==== Sys2Proof/Certificates/Slice0/Obligations.lean ====
section
/-! DEFINITION. The statements for the provers. Results are written as bytes (status 0x00 OK, 0x01 BUSY,
0x02 REFUSED_PENDING, 0xFF ILLEGAL: 30_encoding.md R70), and a next state that differs from s only in its answer as
`{ s with out := … }`, which is the whole frame. Many rules of this spec are its own decisions (92_eei_decisions.md);
they are cited as the rules they are. -/

open Sys2Proof Sys2Proof.Machine

/-! ### Parameters, reset, invariants -/

/-- 10_state.md R21: slot numbers and sizes; 4 to 255 name no slot. -/
def Obligations.SlotNumbersAndSizes : Prop :=
  SlotId.ofByte 0 = some .standard ∧ SlotId.ofByte 1 = some .confirmation ∧ SlotId.ofByte 2 = some .errorLog ∧
  SlotId.ofByte 3 = some .display ∧ (∀ k : Byte, 4 ≤ k.toNat → SlotId.ofByte k = none) ∧
  SlotId.standard.size = 5 ∧ SlotId.confirmation.size = 1 ∧ SlotId.errorLog.size = 42 ∧ SlotId.display.size = 42

/-- 00_scope.md R4: the twelve command ids are pairwise distinct. -/
def Obligations.CommandIdsDistinct : Prop := ∀ c d : CmdId, Config.cmdId c = Config.cmdId d → c = d

/-- 10_state.md R33, R34: the reset input puts the block in its reset state and touches neither the transport nor the
clock. -/
def Obligations.ResetInputRestoresBlock : Prop :=
  ∀ s t : State, t = s.land .assertReset →
    (∀ k, t.slot k = { used := false, pending := false, rcvd := false, tmrArmed := false, tmrStart := 0 }) ∧
    (∀ k i, i < SlotId.size k → t.memRead k i = 0) ∧ t.current = none ∧ t.rx = s.rx ∧ t.tx = s.tx ∧ t.now = s.now

/-- Every invariant of this file holds at the reset state. The canonical form that `BufferSpace` asks of the memory list
is the model's choice and no rule's (log entry 6; 20_memory.md R40 gives the addresses only). The reset state's
environment values are the model's choice too (log entry 5); none of them matters here. -/
def Obligations.InvariantsHoldAtReset : Prop :=
  SlotInvariants State.reset ∧ BufferSpace State.reset ∧ PolicyInvariant State.reset

/-- 10_state.md R28: every step, an operation's or the environment's, keeps (a) to (d). The spec marks R28 as derived
from its other rules. -/
def Obligations.StepKeepsSlotInvariants : Prop :=
  ∀ s t : State, SlotInvariants s → step s = .next t → SlotInvariants t

/-- Every step keeps the slot-buffer space canonical and within the 90 addresses of 20_memory.md R40. The canonical
form is the model's (log entry 6). -/
def Obligations.StepKeepsBufferSpace : Prop :=
  ∀ s t : State, BufferSpace s → step s = .next t → BufferSpace t

/-- 44_controller.md R134, first sentence (marked as derived by the spec), under the block's own policy. -/
def Obligations.StepKeepsHeldUntilRelease : Prop :=
  ∀ s t : State, PolicyInvariant s → step s = .next t → PolicyInvariant t

/-! ### Requests and steps -/

/-- Decoding an encoded well-formed instruction, whatever bytes follow it, gives it back and leaves those bytes. -/
def Obligations.DecodeOfEncode : Prop :=
  ∀ (i : Instr) (later : List Byte), i.WellFormed → decode (encode i ++ later) = .request i later

/-- Whatever decodes is the encoding of a well-formed instruction: no request has two spellings, and no byte of a
request is dropped. -/
def Obligations.EncodeOfDecode : Prop :=
  ∀ (bytes later : List Byte) (i : Instr), decode bytes = .request i later →
    i.WellFormed ∧ bytes = encode i ++ later

/-- A few requests written out from 30_encoding.md R60 and R63 decode to what they stand for. -/
def Obligations.SampleRequestsDecode : Prop :=
  decode [0x00] = .request .nop [] ∧
  decode [0x02, 0x01, 0x42] = .request (.chkframe [0x42]) [] ∧
  decode [0x03, 0x81, 0x02, 0x02, 0x09, 0x00, 0xF0] = .request (.encode 0x81 0x02 0x0209 0x00F0) [] ∧
  decode [0x04, 0x00, 0x01, 0x70] = .request (.decode16 0x00 0x01 0x70) [] ∧
  decode [0x11, 0x03, 0x02, 0x09, 0x00, 0xF0] = .request (.wrReg 0x03 0x0209 0x00F0) [] ∧
  decode [0x34, 0x02, 0x29, 0x20] = .request (.readBuf 2 41) [0x20]

/-- When the bytes on the request port decode to an instruction, the step is that instruction's meaning, run after its
bytes, and only they, have left the port. Two things here are the model's choice and no rule's: the byte queue and how
much leaves it (log entry 1), and that a whole request runs before any listed environment event, which 00_scope.md R14
does not say (log entry 3). -/
def Obligations.StepRunsDecodedRequest : Prop :=
  ∀ (s : State) (i : Instr) (later : List Byte), decode s.req = .request i later →
    i.WellFormed ∧ step s = exec i { s with req := later }

/-- 30_encoding.md R61, R64: an unassigned opcode is a request of one byte, answered ILLEGAL, and nothing else changes.
That exactly that byte leaves the port is deduced (log entry 1), and that it runs before any listed environment event is
the model's choice (log entry 3). -/
def Obligations.UnassignedOpcodeAnswered : Prop :=
  ∀ (s : State) (op : Byte) (later : List Byte), s.req = op :: later →
    (0x05 ≤ op.toNat ∧ op.toNat ≤ 0x0F ∨ 0x16 ≤ op.toNat ∧ op.toNat ≤ 0x1F ∨ 0x22 ≤ op.toNat ∧ op.toNat ≤ 0x2F ∨
      0x35 ≤ op.toNat ∧ op.toNat ≤ 0x3F ∨ 0x44 ≤ op.toNat) →
    step s = .next { s with req := later, out := s.out ++ [[0xFF]] }

/-- 30_encoding.md R66: fewer bytes than the request's length are no request: the step is refused when no environment
event is listed, and otherwise lands the next event and answers nothing; the bytes after a complete request begin the
next one. R66 says only 'no step, no result' and where the next request begins. The queue is the model's choice (log
entry 1), so is landing the next event (log entry 3), and that the answers outlive a reset is deduced (log entry 7). -/
def Obligations.TruncatedRequestHasNoStep : Prop :=
  (∀ s : State, (∀ n, requestLength s.req = some n → s.req.length < n) →
    (s.inputs = [] → step s = .refused .requestIncomplete) ∧
    (∀ (e : Input) (later : List Input), s.inputs = e :: later →
      ∃ t, step s = .next t ∧ t = ({ s with inputs := later } : State).land e ∧ t.out = s.out)) ∧
  (∀ (s t : State) (n : Nat), requestLength s.req = some n → n ≤ s.req.length → step s = .next t →
    t.req = s.req.drop n)

/-- While the port holds no whole request the next environment event lands. Device bytes, the clock and reset do to the
block and its environment only what 00_scope.md R14, 20_memory.md R46, 10_state.md R31, R33 and
70_reset_and_hazards.md R160, R161 say. That request bytes join the byte queue of the port, none lost, is the model's
choice and no rule's (log entry 1), and so is the order, requests first (log entry 3). That a reset keeps the request
port, with a request received in part, and the answers given is deduced (log entry 7). -/
def Obligations.EnvironmentEventLands : Prop :=
  ∀ (s : State) (later : List Input), decode s.req = .incomplete →
    (∀ bytes, s.inputs = .requestBytes bytes :: later →
      step s = .next { s with inputs := later, req := s.req ++ bytes }) ∧
    (∀ bytes, s.inputs = .deviceBytes bytes :: later →
      step s = .next { s with inputs := later, rx := s.rx ++ bytes }) ∧
    (∀ ms, s.inputs = .clockAdvance ms :: later →
      step s = .next { s with inputs := later, now := s.now + BitVec.ofNat 32 ms }) ∧
    (s.inputs = .assertReset :: later →
      step s = .next { State.reset with
        inputs := later, rx := s.rx, tx := s.tx, now := s.now, req := s.req, out := s.out })

/-- No step faults (60_exceptions.md R140), and the only stop is the wait for request bytes (30_encoding.md R66). That
the machine stops only when no environment event is left, and else lands the next one, is the model's choice and no
rule's (log entry 3). -/
def Obligations.EveryStepIsSafe : Prop := ∀ s : State, SafeStep s

/-- Every operation, in every state, answers one result led by a status code of 30_encoding.md R70 (R62); one that is
not OK has no further bytes and changes nothing (60_exceptions.md R142, 44_controller.md R135); none touches the clock,
the request port or the environment's events. -/
def Obligations.EveryOperationAnswers : Prop :=
  ∀ (i : Instr) (s : State), ∃ t status values, exec i s = .next t ∧ t.out = s.out ++ [status :: values] ∧
    status ∈ [(0x00 : Byte), 0x01, 0x02, 0xFF] ∧
    (status ≠ 0x00 → values = [] ∧ t = { s with out := s.out ++ [[status]] }) ∧
    t.now = s.now ∧ t.req = s.req ∧ t.inputs = s.inputs

/-! ### Who may change what, over all instructions -/

/-- 10_state.md R23: only an issue to a slot sets its `used`, only RELEASE of that slot clears it. -/
def Obligations.UsedFlagRule : Prop :=
  ∀ (i : Instr) (s t : State) (k : SlotId), exec i s = .next t →
    ((s.slot k).used = false → (t.slot k).used = true → issueSlot i = some k ∧ t.current = some k) ∧
    ((s.slot k).used = true → (t.slot k).used = false → i = .release k.byte)

/-- 10_state.md R24, R25: only an issue to a slot sets its `pending`, only POLL of the current slot clears it; `rcvd`
is set only by the POLL that ends a pending period and cleared only by POLL or an issue. -/
def Obligations.PendingAndReceivedRule : Prop :=
  ∀ (i : Instr) (s t : State) (k : SlotId), exec i s = .next t →
    ((s.slot k).pending = false → (t.slot k).pending = true → issueSlot i = some k) ∧
    ((s.slot k).pending = true → (t.slot k).pending = false → i = .poll ∧ s.current = some k) ∧
    ((s.slot k).rcvd = false → (t.slot k).rcvd = true → i = .poll ∧ s.current = some k ∧ (s.slot k).pending = true) ∧
    ((s.slot k).rcvd = true → (t.slot k).rcvd = false → i = .poll ∨ issueSlot i = some k)

/-- 10_state.md R27: `S.current` changes only to the slot of an issue, or from k to none by RELEASE of k. -/
def Obligations.CurrentReferenceRule : Prop :=
  ∀ (i : Instr) (s t : State), exec i s = .next t → t.current ≠ s.current →
    (∃ k, issueSlot i = some k ∧ t.current = some k) ∨
    (∃ k : SlotId, i = .release k.byte ∧ s.current = some k ∧ t.current = none)

/-- 42_receive_fsm.md R102: only POLL of the current, pending slot starts a timer, from stopped to armed, with the
clock's value; nothing else ever writes `tmr_start`, so no armed timer is restarted. -/
def Obligations.TimerStartRule : Prop :=
  ∀ (i : Instr) (s t : State) (k : SlotId), exec i s = .next t →
    ((s.slot k).tmrArmed = false → (t.slot k).tmrArmed = true →
      i = .poll ∧ s.current = some k ∧ (s.slot k).pending = true ∧ (t.slot k).tmrStart = s.now) ∧
    ((t.slot k).tmrStart ≠ (s.slot k).tmrStart →
      i = .poll ∧ s.current = some k ∧ (s.slot k).pending = true ∧ (s.slot k).tmrArmed = false ∧
        (t.slot k).tmrArmed = true ∧ (t.slot k).tmrStart = s.now)

/-- 10_state.md R22: a buffer byte changes only by POLL of its slot, which the current reference names, or by the
zeroing of an issue to its slot. -/
def Obligations.BufferWritersRule : Prop :=
  ∀ (i : Instr) (s t : State) (a : Nat), exec i s = .next t → t.mem.read a ≠ s.mem.read a →
    ∃ k n, n < SlotId.size k ∧ a = slotAddr k n ∧
      ((i = .poll ∧ s.current = some k) ∨ (issueSlot i = some k ∧ t.memRead k n = 0))

/-- 20_memory.md R48: only POLL takes received bytes, and then from the front; only issue operations send, and then
one frame. The spec marks R48 as derived from its other rules. -/
def Obligations.TransportUsersRule : Prop :=
  ∀ (i : Instr) (s t : State), exec i s = .next t →
    (t.rx ≠ s.rx → i = .poll ∧ ∃ n, t.rx = s.rx.drop n) ∧
    (t.tx ≠ s.tx → (∃ k, issueSlot i = some k) ∧ ∃ frame, frame.length = 9 ∧ t.tx = s.tx ++ frame)

/-! ### NOP, checksum unit, frame codec -/

/-- 44_controller.md R133. -/
def Obligations.NopAnswersOk : Prop :=
  ∀ s : State, exec .nop s = .next { s with out := s.out ++ [[0x00]] }

/-- 40_checksum.md R82, for any number of bytes. -/
def Obligations.CsumResult : Prop :=
  ∀ (bytes : List Byte) (s : State),
    exec (.csum bytes) s = .next { s with out := s.out ++ [[0x00, Config.checksum bytes]] }

/-- 40_checksum.md R83: 0 below two bytes, else whether the last byte is the checksum of those between the first and
the last. -/
def Obligations.ChkframeResult : Prop :=
  ∀ s : State,
    (∀ bytes : List Byte, bytes.length < 2 →
      exec (.chkframe bytes) s = .next { s with out := s.out ++ [[0x00, 0x00]] }) ∧
    (∀ (first last : Byte) (covered : List Byte),
      exec (.chkframe (first :: covered ++ [last])) s =
        .next { s with out := s.out ++ [[0x00, if last = Config.checksum covered then 0x01 else 0x00]] })

/-- 40_checksum.md R83, "Status: always OK": CHKFRAME of any bytes completes in every state, with OK, one byte 0 or 1,
and nothing else changed; the byte is 1 exactly when the bytes are a first one, covered ones and their checksum. -/
def Obligations.ChkframeCompletes : Prop :=
  ∀ (bytes : List Byte) (s : State), ∃ v : Byte, (v = 0x00 ∨ v = 0x01) ∧
    exec (.chkframe bytes) s = .next { s with out := s.out ++ [[0x00, v]] } ∧
    (v = 0x01 ↔ ∃ (first : Byte) (covered : List Byte), bytes = first :: covered ++ [Config.checksum covered])

/-- 41_frame_codec.md R92, 30_encoding.md R67: the frame's nine bytes, field by field. -/
def Obligations.EncodeBuildsWireFrame : Prop :=
  ∀ (dev cmd : Byte) (reg data : Half) (s : State),
    exec (.encode dev cmd reg data) s = .next { s with out := s.out ++ [0x00 :: wireFrame dev cmd reg data] } ∧
    (wireFrame dev cmd reg data).length = 9

/-- 41_frame_codec.md R91, R93: DECODE16 joins the three fields and ignores the other bits. -/
def Obligations.Decode16JoinsGroups : Prop :=
  ∀ (g2 g1 g0 : Byte) (s : State), ∃ v : Half, IsJoined v g2 g1 g0 ∧
    exec (.decode16 g2 g1 g0) s =
      .next { s with out := s.out ++ [[0x00, v.extractLsb' 8 8, v.extractLsb' 0 8]] }

/-- 41_frame_codec.md R94 (marked as derived by the spec): DECODE16 of the groups of an encoded frame gives back the
register address and the data. -/
def Obligations.CodecRoundTrip : Prop :=
  ∀ (dev cmd : Byte) (reg data : Half) (s : State), ∃ r2 r1 r0 d2 d1 d0 c : Byte,
    exec (.encode dev cmd reg data) s =
      .next { s with out := s.out ++ [[0x00, dev, cmd, r2, r1, r0, d2, d1, d0, c]] } ∧
    exec (.decode16 r2 r1 r0) s =
      .next { s with out := s.out ++ [[0x00, reg.extractLsb' 8 8, reg.extractLsb' 0 8]] } ∧
    exec (.decode16 d2 d1 d0) s =
      .next { s with out := s.out ++ [[0x00, data.extractLsb' 8 8, data.extractLsb' 0 8]] }

/-! ### The arbiter and the issue operations -/

/-- 44_controller.md R120: both busy predicates, and that the block uses the one of its policy. -/
def Obligations.BusyPredicate : Prop :=
  ∀ (s : State) (k : SlotId),
    (s.busyUnder k .untilRelease = true ↔ s.current ≠ none) ∧
    (s.busyUnder k .pendingOnly = true ↔ (∃ j, (s.slot j).pending = true) ∨ (s.slot k).used = true) ∧
    s.busy k = s.busyUnder k Config.arbPolicy

/-- 44_controller.md R123: RD_REG is illegal for any other command id (even when busy), BUSY when the arbiter is, and
otherwise issues to the Standard slot with data 0. -/
def Obligations.RdRegRule : Prop :=
  ∀ (cmd : Byte) (reg : Half) (s : State),
    ((∀ c ∈ [CmdId.readFrontPanel, .readSystemReg, .readTimerReg, .readRegExtra], cmd ≠ Config.cmdId c) →
      exec (.rdReg cmd reg) s = .next { s with out := s.out ++ [[0xFF]] }) ∧
    ((∃ c ∈ [CmdId.readFrontPanel, .readSystemReg, .readTimerReg, .readRegExtra], cmd = Config.cmdId c) →
      (s.busy .standard = true → exec (.rdReg cmd reg) s = .next { s with out := s.out ++ [[0x01]] }) ∧
      (s.busy .standard = false → ∃ t, exec (.rdReg cmd reg) s = .next t ∧
        Issued s t .standard (wireFrame Config.devAddr cmd reg 0)))

/-- 44_controller.md R124: the same for WR_REG, the write ids and the Confirmation slot, with the data. -/
def Obligations.WrRegRule : Prop :=
  ∀ (cmd : Byte) (reg data : Half) (s : State),
    ((∀ c ∈ [CmdId.writeFrontPanel, .writeSystemReg, .writeTimerReg, .writeRegExtra], cmd ≠ Config.cmdId c) →
      exec (.wrReg cmd reg data) s = .next { s with out := s.out ++ [[0xFF]] }) ∧
    ((∃ c ∈ [CmdId.writeFrontPanel, .writeSystemReg, .writeTimerReg, .writeRegExtra], cmd = Config.cmdId c) →
      (s.busy .confirmation = true → exec (.wrReg cmd reg data) s = .next { s with out := s.out ++ [[0x01]] }) ∧
      (s.busy .confirmation = false → ∃ t, exec (.wrReg cmd reg data) s = .next t ∧
        Issued s t .confirmation (wireFrame Config.devAddr cmd reg data)))

/-- 44_controller.md R125 to R128: the four issue operations with a fixed command id. -/
def Obligations.FixedCommandRules : Prop :=
  ∀ s : State,
    (s.busy .errorLog = true →
      exec .rdLastErr s = .next { s with out := s.out ++ [[0x01]] } ∧
      exec .rdPrevErr s = .next { s with out := s.out ++ [[0x01]] }) ∧
    (s.busy .errorLog = false →
      (∃ t, exec .rdLastErr s = .next t ∧
        Issued s t .errorLog (wireFrame Config.devAddr (Config.cmdId .readLastError) 0 0)) ∧
      (∃ t, exec .rdPrevErr s = .next t ∧
        Issued s t .errorLog (wireFrame Config.devAddr (Config.cmdId .readPrevError) 0 0))) ∧
    (s.busy .standard = true → exec .rdVersion s = .next { s with out := s.out ++ [[0x01]] }) ∧
    (s.busy .standard = false → ∃ t, exec .rdVersion s = .next t ∧
      Issued s t .standard (wireFrame Config.devAddr (Config.cmdId .readFwVersion) 0 0)) ∧
    (∀ reg : Half,
      (s.busy .display = true → exec (.rdDisplay reg) s = .next { s with out := s.out ++ [[0x01]] }) ∧
      (s.busy .display = false → ∃ t, exec (.rdDisplay reg) s = .next t ∧
        Issued s t .display (wireFrame Config.devAddr (Config.cmdId .readDisplay) reg 0)))

/-- 30_encoding.md R65 with R69 and the distinctness of R4: a write id to RD_REG, or a read id to WR_REG, is illegal in
every state. -/
def Obligations.WrongClassIdIsIllegal : Prop :=
  ∀ (reg data : Half) (s : State),
    (∀ c ∈ writeRegisterIds, exec (.rdReg (Config.cmdId c) reg) s = .next { s with out := s.out ++ [[0xFF]] }) ∧
    (∀ c ∈ readRegisterIds, exec (.wrReg (Config.cmdId c) reg data) s = .next { s with out := s.out ++ [[0xFF]] })

/-- 44_controller.md R135 (marked as derived by the spec): while any slot is pending, every issue is refused under
either policy and changes nothing. -/
def Obligations.SecondCommandRefused : Prop :=
  ∀ (i : Instr) (s : State) (j k : SlotId), SlotInvariants s → (s.slot j).pending = true → issueSlot i = some k →
    exec i s = .next { s with out := s.out ++ [[0x01]] } ∨ exec i s = .next { s with out := s.out ++ [[0xFF]] }

/-- 44_controller.md R121: after an accepted issue the slot's accessors give nothing of the previous response. -/
def Obligations.NoStaleContentAfterIssue : Prop :=
  ∀ (i : Instr) (s t : State) (k : SlotId), issueSlot i = some k → exec i s = .next t →
    t.out = s.out ++ [[0x00, k.byte]] →
    exec (.getDevaddr k.byte) t = .next { t with out := t.out ++ [[0x00, 0x00]] } ∧
    (k = .standard → exec .getValue t = .next { t with out := t.out ++ [[0x00, 0x00, 0x00]] }) ∧
    (k = .errorLog → exec .getErrId t = .next { t with out := t.out ++ [[0x00, 0x00]] } ∧
      exec .getErrLog t = .next { t with out := t.out ++ [0x00 :: List.replicate 15 0x00] }) ∧
    (k = .display → exec .getDisplay t = .next { t with out := t.out ++ [[0x00, 0x00]] })

/-! ### The receive state machine -/

/-- 42_receive_fsm.md R103, first line and step 1. -/
def Obligations.PollWithNothingPending : Prop :=
  ∀ s : State, (s.current = none ∨ ∃ k, s.current = some k ∧ (s.slot k).pending = false) →
    exec .poll s = .next { s with out := s.out ++ [[0x00]] }

/-- 42_receive_fsm.md R103 step 3: the first POLL of a pending period only arms the timer, whatever bytes wait. -/
def Obligations.PollArmsTimer : Prop :=
  ∀ (s : State) (k : SlotId), s.current = some k → (s.slot k).pending = true → (s.slot k).tmrArmed = false →
    ∃ t, exec .poll s = .next t ∧ t.slot k = { s.slot k with tmrArmed := true, tmrStart := s.now } ∧
      t.mem = s.mem ∧ t.rx = s.rx ∧ PollFrame s t k

/-- 42_receive_fsm.md R104, with the deadline of R101: the timeout wins whatever bytes wait. -/
def Obligations.PollTimesOut : Prop :=
  ∀ (s : State) (k : SlotId), s.current = some k → (s.slot k).pending = true → (s.slot k).tmrArmed = true →
    30000 ≤ (s.now - (s.slot k).tmrStart).toNat →
    ∃ t, exec .poll s = .next t ∧
      t.slot k = { s.slot k with pending := false, rcvd := false, tmrArmed := false } ∧
      (∀ i, i < k.size → t.memRead k i = 0) ∧ t.rx = [] ∧ t.valid k = false ∧ PollFrame s t k

/-- 42_receive_fsm.md R105: before the deadline, a whole frame is read, oldest byte first, and no byte more. -/
def Obligations.PollCompletes : Prop :=
  ∀ (s : State) (k : SlotId), s.current = some k → (s.slot k).pending = true → (s.slot k).tmrArmed = true →
    (s.now - (s.slot k).tmrStart).toNat < 30000 → k.size ≤ s.rx.length →
    ∃ t, exec .poll s = .next t ∧
      t.slot k = { s.slot k with pending := false, rcvd := true, tmrArmed := false } ∧
      (∀ i, i < k.size → s.rx[i]? = some (t.memRead k i)) ∧ t.rx = s.rx.drop k.size ∧ PollFrame s t k

/-- 42_receive_fsm.md R107: before the deadline and with too few bytes, POLL changes no state. -/
def Obligations.PollKeepsWaiting : Prop :=
  ∀ (s : State) (k : SlotId), s.current = some k → (s.slot k).pending = true → (s.slot k).tmrArmed = true →
    (s.now - (s.slot k).tmrStart).toNat < 30000 → s.rx.length < k.size →
    exec .poll s = .next { s with out := s.out ++ [[0x00]] }

/-- 42_receive_fsm.md R108 (marked as derived by the spec): after a timeout, further POLLs change nothing, whatever
the device sends and whatever the clock says. -/
def Obligations.TimedOutPollsChangeNothing : Prop :=
  ∀ (s t : State) (k : SlotId) (rx : List Byte) (now : Time), s.current = some k → (s.slot k).pending = true →
    (s.slot k).tmrArmed = true → 30000 ≤ (s.now - (s.slot k).tmrStart).toNat → exec .poll s = .next t →
    exec .poll { t with rx := rx, now := now } =
      .next { t with rx := rx, now := now, out := t.out ++ [[0x00]] }

/-- From a fresh issue with the whole reply waiting, the first POLL arms and a second one within the deadline
completes with the reply in the buffer (42_receive_fsm.md R103, corner case (a)). -/
def Obligations.ReplyReadAtSecondPoll : Prop :=
  ∀ (s : State) (k : SlotId) (ms : Nat), s.current = some k → (s.slot k).pending = true →
    (s.slot k).tmrArmed = false → k.size ≤ s.rx.length → ms < 30000 →
    ∃ t u, exec .poll s = .next t ∧ exec .poll (t.land (.clockAdvance ms)) = .next u ∧
      (u.slot k).pending = false ∧ (u.slot k).rcvd = true ∧ (u.slot k).used = (s.slot k).used ∧
      ∀ i, i < k.size → s.rx[i]? = some (u.memRead k i)

/-- From a fresh issue, a POLL, a wait of at least the deadline (and less than the clock's wrap, 70_reset_and_hazards.md
R167) and a second POLL end the pending period with nothing received, whatever the device sent meanwhile. -/
def Obligations.DeadlineEndsTheWait : Prop :=
  ∀ (s : State) (k : SlotId) (ms : Nat) (bytes : List Byte), s.current = some k → (s.slot k).pending = true →
    (s.slot k).tmrArmed = false → 30000 ≤ ms → ms < 2 ^ 32 →
    ∃ t u, exec .poll s = .next t ∧
      exec .poll ((t.land (.deviceBytes bytes)).land (.clockAdvance ms)) = .next u ∧
      (u.slot k).pending = false ∧ u.valid k = false ∧ u.rx = [] ∧
      exec (.isValid k.byte) u = .next { u with out := u.out ++ [[0x00, 0x00]] }

/-- 42_receive_fsm.md R100: the five states of a slot's receive machine, in states that R28 allows. -/
def Obligations.ReceiveStateTable : Prop :=
  ∀ (s : State) (k : SlotId), SlotInvariants s →
    ((s.slot k).phase = .idle ↔ (s.slot k).used = false) ∧
    ((s.slot k).phase = .awaitingTimeoutStart ↔ (s.slot k).pending = true ∧ (s.slot k).tmrArmed = false) ∧
    ((s.slot k).phase = .pending ↔ (s.slot k).pending = true ∧ (s.slot k).tmrArmed = true) ∧
    ((s.slot k).phase = .complete ↔
      (s.slot k).used = true ∧ (s.slot k).pending = false ∧ (s.slot k).rcvd = true) ∧
    ((s.slot k).phase = .timedOut ↔
      (s.slot k).used = true ∧ (s.slot k).pending = false ∧ (s.slot k).rcvd = false)

/-! ### Release and status -/

/-- 44_controller.md R129: RELEASE, all three outcomes. -/
def Obligations.ReleaseRule : Prop :=
  ∀ (k : Byte) (s : State),
    (4 ≤ k.toNat → exec (.release k) s = .next { s with out := s.out ++ [[0xFF]] }) ∧
    (∀ j, SlotId.ofByte k = some j →
      ((s.slot j).pending = true → exec (.release k) s = .next { s with out := s.out ++ [[0x02]] }) ∧
      ((s.slot j).pending = false → ∃ t, exec (.release k) s = .next t ∧
        t.slot j = { s.slot j with used := false } ∧ (∀ l, l ≠ j → t.slot l = s.slot l) ∧
        t.current = (if s.current = some j then none else s.current) ∧ t.mem = s.mem ∧ t.rx = s.rx ∧ t.tx = s.tx ∧
        t.now = s.now ∧ t.req = s.req ∧ t.inputs = s.inputs ∧ t.out = s.out ++ [[0x00]]))

/-- 44_controller.md R134, second sentence (marked as derived by the spec): once the current slot is settled and
released, an issue to it is accepted, under either policy. -/
def Obligations.ReleaseThenReissue : Prop :=
  ∀ (s t : State) (k : SlotId), SlotInvariants s → s.current = some k → (s.slot k).pending = false →
    exec (.release k.byte) s = .next t → t.busy k = false

/-- 44_controller.md R130. -/
def Obligations.IsUsedResult : Prop :=
  ∀ (k : Byte) (s : State),
    (4 ≤ k.toNat → exec (.isUsed k) s = .next { s with out := s.out ++ [[0xFF]] }) ∧
    (∀ j, SlotId.ofByte k = some j →
      exec (.isUsed k) s = .next { s with out := s.out ++ [[0x00, if (s.slot j).used then 0x01 else 0x00]] })

/-- 44_controller.md R131. -/
def Obligations.IsPendingResult : Prop :=
  ∀ (k : Byte) (s : State),
    (4 ≤ k.toNat → exec (.isPending k) s = .next { s with out := s.out ++ [[0xFF]] }) ∧
    (∀ j, SlotId.ofByte k = some j →
      exec (.isPending k) s = .next { s with out := s.out ++ [[0x00, if (s.slot j).pending then 0x01 else 0x00]] })

/-- 44_controller.md R132: READ_BUF, illegal outside the slot-buffer space. -/
def Obligations.ReadBufResult : Prop :=
  ∀ (k i : Byte) (s : State),
    (4 ≤ k.toNat → exec (.readBuf k i) s = .next { s with out := s.out ++ [[0xFF]] }) ∧
    (∀ j, SlotId.ofByte k = some j →
      (j.size ≤ i.toNat → exec (.readBuf k i) s = .next { s with out := s.out ++ [[0xFF]] }) ∧
      (i.toNat < j.size →
        exec (.readBuf k i) s = .next { s with out := s.out ++ [[0x00, s.memRead j i.toNat]] }))

/-! ### Responses -/

/-- 43_responses.md R110: validity, with the checksum over bytes 1 to N-2 against byte N-1, and none for the
Confirmation slot. -/
def Obligations.IsValidResult : Prop :=
  ∀ (k : Byte) (s : State),
    (4 ≤ k.toNat → exec (.isValid k) s = .next { s with out := s.out ++ [[0xFF]] }) ∧
    (∀ j, SlotId.ofByte k = some j → ∃ v : Byte, (v = 0x00 ∨ v = 0x01) ∧
      exec (.isValid k) s = .next { s with out := s.out ++ [[0x00, v]] } ∧
      (v = 0x01 ↔ (s.slot j).pending = false ∧ (s.slot j).rcvd = true ∧
        (j = .confirmation ∨ s.memRead j (j.size - 1) =
          Config.checksum ((List.range (j.size - 2)).map (fun i => s.memRead j (i + 1))))))

/-- 43_responses.md R111. -/
def Obligations.GetDevaddrResult : Prop :=
  ∀ (k : Byte) (s : State),
    (4 ≤ k.toNat → exec (.getDevaddr k) s = .next { s with out := s.out ++ [[0xFF]] }) ∧
    (∀ j, SlotId.ofByte k = some j →
      exec (.getDevaddr k) s = .next { s with out := s.out ++ [[0x00, s.memRead j 0]] })

/-- 43_responses.md R112: the Standard value, joined from bytes 1 to 3 of slot 0. -/
def Obligations.GetValueResult : Prop :=
  ∀ s : State, ∃ v : Half,
    IsJoined v (s.memRead .standard 1) (s.memRead .standard 2) (s.memRead .standard 3) ∧
    exec .getValue s = .next { s with out := s.out ++ [[0x00, v.extractLsb' 8 8, v.extractLsb' 0 8]] }

/-- 43_responses.md R113, R114: the error id, a nibble pair of bytes 1 and 2 of slot 2, first byte high. -/
def Obligations.GetErrIdResult : Prop :=
  ∀ s : State, ∃ v : Byte, IsNibblePair v (s.memRead .errorLog 1) (s.memRead .errorLog 2) ∧
    exec .getErrId s = .next { s with out := s.out ++ [[0x00, v]] }

/-- 43_responses.md R115: fifteen characters from bytes 3 to 32 of slot 2, NUL kept. -/
def Obligations.GetErrLogResult : Prop :=
  ∀ s : State, ∃ text : List Byte, text.length = 15 ∧
    (∀ i, i < 15 → ∃ v, text[i]? = some v ∧
      IsNibblePair v (s.memRead .errorLog (3 + 2 * i)) (s.memRead .errorLog (4 + 2 * i))) ∧
    exec .getErrLog s = .next { s with out := s.out ++ [0x00 :: text] }

/-- 43_responses.md R116: twenty characters from bytes 1 to 40 of slot 3, NUL omitted, the count first. -/
def Obligations.GetDisplayResult : Prop :=
  ∀ s : State, ∃ chars : List Byte, chars.length = 20 ∧
    (∀ i, i < 20 → ∃ v, chars[i]? = some v ∧
      IsNibblePair v (s.memRead .display (1 + 2 * i)) (s.memRead .display (2 + 2 * i))) ∧
    exec .getDisplay s = .next { s with
      out := s.out ++ [0x00 :: BitVec.ofNat 8 (chars.filter (· ≠ 0)).length :: chars.filter (· ≠ 0)] }

/-- 43_responses.md R118: the caller accepts exactly a valid response whose byte 0 is HOST_ADDR; a valid response of
another sender is valid and not accepted. -/
def Obligations.CallerAcceptance : Prop :=
  ∀ (s : State) (k : SlotId), callerAccepts s k ↔ s.valid k = true ∧ s.memRead k 0 = Config.hostAddr

/-! ### Storage and transport -/

/-- 20_memory.md R40: a MemWrite is read back at its own `(k, i)` and at no other, and changes nothing else. -/
def Obligations.BufferReadAfterWrite : Prop :=
  ∀ (s : State) (k j : SlotId) (i n : Nat) (v : Byte), i < k.size → n < j.size →
    ((s.memWrite k i v).memRead k i = v) ∧
    ((k, i) ≠ (j, n) → (s.memWrite k i v).memRead j n = s.memRead j n) ∧
    s.memWrite k i v = { s with mem := (s.memWrite k i v).mem }

/-- 20_memory.md R45: the four transport primitives. -/
def Obligations.TransportPrimitives : Prop :=
  ∀ (s : State) (b : Byte) (rest frame : List Byte),
    s.rxAvail = s.rx.length ∧
    (s.rx = b :: rest → s.rxRead = some (b, { s with rx := rest })) ∧
    s.rxFlush = { s with rx := [] } ∧
    s.txWrite frame = { s with tx := s.tx ++ frame }
end

