-- ==== Sys2Proof/Laws/Decode.lean ====
section
/-! SUPPORT. The opcode map and the byte order: every operation is found by its own code, codes are distinct, a 16-bit
operand is its two bytes. -/

namespace Sys2Proof

/-- The opcode map finds each operation by its own code (30_encoding.md R63). -/
@[simp] theorem ofByte_code (op : Op) : Op.ofByte op.code = some op := by cases op <;> rfl

/-- The byte that selects an operation is its code. -/
theorem ofByte_eq_some_iff (b : Byte) (op : Op) : Op.ofByte b = some op ↔ b = op.code := by
  constructor
  · intro h
    have := List.find?_some h
    exact (beq_iff_eq.mp this).symm
  · rintro rfl
    exact ofByte_code op

/-- No two operations share a code. -/
theorem code_injective {op oq : Op} (h : op.code = oq.code) : op = oq := by
  have := ofByte_code op
  rw [h, ofByte_code] at this
  exact (Option.some.inj this).symm

@[simp] theorem be16_hiByte_loByte (v : Half) : be16 (hiByte v) (loByte v) = v := by
  ext i h
  by_cases hi : i < 8
  · simp [be16, hiByte, loByte, hi, BitVec.getLsbD_eq_getElem h]
  · simp [be16, hiByte, loByte, hi, show 8 + (i - 8) = i by omega, show i - 8 < 8 by omega,
      BitVec.getLsbD_eq_getElem h]

@[simp] theorem hiByte_be16 (hi lo : Byte) : hiByte (be16 hi lo) = hi := by
  ext i h
  simp [be16, hiByte, show 8 + i < 16 by omega, BitVec.getLsbD_eq_getElem h]

@[simp] theorem loByte_be16 (hi lo : Byte) : loByte (be16 hi lo) = lo := by
  ext i h
  simp [be16, loByte, h, show i < 16 by omega]

/-- A count that fits its byte is read back from it (30_encoding.md R60, format FL). -/
theorem count_toNat {n : Nat} (h : n ≤ 255) : (BitVec.ofNat 8 n).toNat = n := by
  simp only [BitVec.toNat_ofNat]
  omega

/-- The length a format FL request announces. -/
theorem requestLength_list {bytes : List Byte} {i : Instr} (op : Op) (hop : op.format = .fl)
    (henc : encode i = op.code :: BitVec.ofNat 8 bytes.length :: bytes) (h : bytes.length ≤ 255) (later : List Byte) :
    requestLength (encode i ++ later) = some (encode i).length := by
  simp [henc, requestLength, hop, Format.length]
  omega

end Sys2Proof
end

