-- ==== Sys2Proof/Laws/State.lean ====
section
/-! SUPPORT. What each update of the state does to each field: one lemma per field per update, so that no later proof
unfolds a record update. -/

namespace Sys2Proof.Machine

open Sys2Proof

variable (s : State)

/-! ### Slots -/

@[simp] theorem slot_setSlot (k j : SlotId) (r : SlotRegs) :
    (s.setSlot k r).slot j = if j = k then r else s.slot j := by
  cases k <;> cases j <;> rfl

theorem slot_setSlot_same (k : SlotId) (r : SlotRegs) : (s.setSlot k r).slot k = r := by simp

theorem slot_setSlot_other (k j : SlotId) (r : SlotRegs) (h : j ≠ k) : (s.setSlot k r).slot j = s.slot j := by
  simp [h]

@[simp] theorem slot_reset (k : SlotId) : State.reset.slot k = SlotRegs.reset := by cases k <;> rfl

@[simp] theorem mem_setSlot (k : SlotId) (r : SlotRegs) : (s.setSlot k r).mem = s.mem := by
  cases k <;> rfl

@[simp] theorem current_setSlot (k : SlotId) (r : SlotRegs) : (s.setSlot k r).current = s.current := by
  cases k <;> rfl

@[simp] theorem rx_setSlot (k : SlotId) (r : SlotRegs) : (s.setSlot k r).rx = s.rx := by
  cases k <;> rfl

@[simp] theorem tx_setSlot (k : SlotId) (r : SlotRegs) : (s.setSlot k r).tx = s.tx := by
  cases k <;> rfl

@[simp] theorem now_setSlot (k : SlotId) (r : SlotRegs) : (s.setSlot k r).now = s.now := by
  cases k <;> rfl

@[simp] theorem req_setSlot (k : SlotId) (r : SlotRegs) : (s.setSlot k r).req = s.req := by
  cases k <;> rfl

@[simp] theorem out_setSlot (k : SlotId) (r : SlotRegs) : (s.setSlot k r).out = s.out := by
  cases k <;> rfl

@[simp] theorem inputs_setSlot (k : SlotId) (r : SlotRegs) : (s.setSlot k r).inputs = s.inputs := by
  cases k <;> rfl

@[simp] theorem memRead_setSlot (k j : SlotId) (r : SlotRegs) (i : Nat) :
    (s.setSlot k r).memRead j i = s.memRead j i := by
  cases k <;> rfl

/-! ### memWrite -/

@[simp] theorem slot_memWrite (k : SlotId) (i : Nat) (v : Byte) (j : SlotId) : (s.memWrite k i v).slot j = s.slot j := by cases j <;> rfl

@[simp] theorem mem_memWrite (k : SlotId) (i : Nat) (v : Byte) : (s.memWrite k i v).mem = s.mem.write (slotAddr k i) v := rfl

@[simp] theorem current_memWrite (k : SlotId) (i : Nat) (v : Byte) : (s.memWrite k i v).current = s.current := rfl

@[simp] theorem rx_memWrite (k : SlotId) (i : Nat) (v : Byte) : (s.memWrite k i v).rx = s.rx := rfl

@[simp] theorem tx_memWrite (k : SlotId) (i : Nat) (v : Byte) : (s.memWrite k i v).tx = s.tx := rfl

@[simp] theorem now_memWrite (k : SlotId) (i : Nat) (v : Byte) : (s.memWrite k i v).now = s.now := rfl

@[simp] theorem req_memWrite (k : SlotId) (i : Nat) (v : Byte) : (s.memWrite k i v).req = s.req := rfl

@[simp] theorem out_memWrite (k : SlotId) (i : Nat) (v : Byte) : (s.memWrite k i v).out = s.out := rfl

@[simp] theorem inputs_memWrite (k : SlotId) (i : Nat) (v : Byte) : (s.memWrite k i v).inputs = s.inputs := rfl

/-! ### rxFlush -/

@[simp] theorem slot_rxFlush (j : SlotId) : s.rxFlush.slot j = s.slot j := by cases j <;> rfl

@[simp] theorem mem_rxFlush : s.rxFlush.mem = s.mem := rfl

@[simp] theorem current_rxFlush : s.rxFlush.current = s.current := rfl

@[simp] theorem rx_rxFlush : s.rxFlush.rx = [] := rfl

@[simp] theorem tx_rxFlush : s.rxFlush.tx = s.tx := rfl

@[simp] theorem now_rxFlush : s.rxFlush.now = s.now := rfl

@[simp] theorem req_rxFlush : s.rxFlush.req = s.req := rfl

@[simp] theorem out_rxFlush : s.rxFlush.out = s.out := rfl

@[simp] theorem inputs_rxFlush : s.rxFlush.inputs = s.inputs := rfl

@[simp] theorem memRead_rxFlush (j : SlotId) (n : Nat) :
    s.rxFlush.memRead j n = s.memRead j n := rfl

/-! ### txWrite -/

@[simp] theorem slot_txWrite (xs : List Byte) (j : SlotId) : (s.txWrite xs).slot j = s.slot j := by cases j <;> rfl

@[simp] theorem mem_txWrite (xs : List Byte) : (s.txWrite xs).mem = s.mem := rfl

@[simp] theorem current_txWrite (xs : List Byte) : (s.txWrite xs).current = s.current := rfl

@[simp] theorem rx_txWrite (xs : List Byte) : (s.txWrite xs).rx = s.rx := rfl

@[simp] theorem tx_txWrite (xs : List Byte) : (s.txWrite xs).tx = s.tx ++ xs := rfl

@[simp] theorem now_txWrite (xs : List Byte) : (s.txWrite xs).now = s.now := rfl

@[simp] theorem req_txWrite (xs : List Byte) : (s.txWrite xs).req = s.req := rfl

@[simp] theorem out_txWrite (xs : List Byte) : (s.txWrite xs).out = s.out := rfl

@[simp] theorem inputs_txWrite (xs : List Byte) : (s.txWrite xs).inputs = s.inputs := rfl

@[simp] theorem memRead_txWrite (xs : List Byte) (j : SlotId) (n : Nat) :
    (s.txWrite xs).memRead j n = s.memRead j n := rfl

/-! ### setCurrent -/

@[simp] theorem slot_setCurrent (c : Option SlotId) (j : SlotId) : (s.setCurrent c).slot j = s.slot j := by cases j <;> rfl

@[simp] theorem mem_setCurrent (c : Option SlotId) : (s.setCurrent c).mem = s.mem := rfl

@[simp] theorem current_setCurrent (c : Option SlotId) : (s.setCurrent c).current = c := rfl

@[simp] theorem rx_setCurrent (c : Option SlotId) : (s.setCurrent c).rx = s.rx := rfl

@[simp] theorem tx_setCurrent (c : Option SlotId) : (s.setCurrent c).tx = s.tx := rfl

@[simp] theorem now_setCurrent (c : Option SlotId) : (s.setCurrent c).now = s.now := rfl

@[simp] theorem req_setCurrent (c : Option SlotId) : (s.setCurrent c).req = s.req := rfl

@[simp] theorem out_setCurrent (c : Option SlotId) : (s.setCurrent c).out = s.out := rfl

@[simp] theorem inputs_setCurrent (c : Option SlotId) : (s.setCurrent c).inputs = s.inputs := rfl

@[simp] theorem memRead_setCurrent (c : Option SlotId) (j : SlotId) (n : Nat) :
    (s.setCurrent c).memRead j n = s.memRead j n := rfl

/-! ### answer -/

@[simp] theorem slot_answer (r : List Byte) (j : SlotId) : (s.answer r).slot j = s.slot j := by cases j <;> rfl

@[simp] theorem mem_answer (r : List Byte) : (s.answer r).mem = s.mem := rfl

@[simp] theorem current_answer (r : List Byte) : (s.answer r).current = s.current := rfl

@[simp] theorem rx_answer (r : List Byte) : (s.answer r).rx = s.rx := rfl

@[simp] theorem tx_answer (r : List Byte) : (s.answer r).tx = s.tx := rfl

@[simp] theorem now_answer (r : List Byte) : (s.answer r).now = s.now := rfl

@[simp] theorem req_answer (r : List Byte) : (s.answer r).req = s.req := rfl

@[simp] theorem out_answer (r : List Byte) : (s.answer r).out = s.out ++ [r] := rfl

@[simp] theorem inputs_answer (r : List Byte) : (s.answer r).inputs = s.inputs := rfl

@[simp] theorem memRead_answer (r : List Byte) (j : SlotId) (n : Nat) :
    (s.answer r).memRead j n = s.memRead j n := rfl

/-! ### withReq -/

@[simp] theorem slot_withReq (bytes : List Byte) (j : SlotId) : (s.withReq bytes).slot j = s.slot j := by cases j <;> rfl

@[simp] theorem mem_withReq (bytes : List Byte) : (s.withReq bytes).mem = s.mem := rfl

@[simp] theorem current_withReq (bytes : List Byte) : (s.withReq bytes).current = s.current := rfl

@[simp] theorem rx_withReq (bytes : List Byte) : (s.withReq bytes).rx = s.rx := rfl

@[simp] theorem tx_withReq (bytes : List Byte) : (s.withReq bytes).tx = s.tx := rfl

@[simp] theorem now_withReq (bytes : List Byte) : (s.withReq bytes).now = s.now := rfl

@[simp] theorem req_withReq (bytes : List Byte) : (s.withReq bytes).req = bytes := rfl

@[simp] theorem out_withReq (bytes : List Byte) : (s.withReq bytes).out = s.out := rfl

@[simp] theorem inputs_withReq (bytes : List Byte) : (s.withReq bytes).inputs = s.inputs := rfl

@[simp] theorem memRead_withReq (bytes : List Byte) (j : SlotId) (n : Nat) :
    (s.withReq bytes).memRead j n = s.memRead j n := rfl

/-! ### withInputs -/

@[simp] theorem slot_withInputs (es : List Input) (j : SlotId) : (s.withInputs es).slot j = s.slot j := by cases j <;> rfl

@[simp] theorem mem_withInputs (es : List Input) : (s.withInputs es).mem = s.mem := rfl

@[simp] theorem current_withInputs (es : List Input) : (s.withInputs es).current = s.current := rfl

@[simp] theorem rx_withInputs (es : List Input) : (s.withInputs es).rx = s.rx := rfl

@[simp] theorem tx_withInputs (es : List Input) : (s.withInputs es).tx = s.tx := rfl

@[simp] theorem now_withInputs (es : List Input) : (s.withInputs es).now = s.now := rfl

@[simp] theorem req_withInputs (es : List Input) : (s.withInputs es).req = s.req := rfl

@[simp] theorem out_withInputs (es : List Input) : (s.withInputs es).out = s.out := rfl

@[simp] theorem inputs_withInputs (es : List Input) : (s.withInputs es).inputs = es := rfl

@[simp] theorem memRead_withInputs (es : List Input) (j : SlotId) (n : Nat) :
    (s.withInputs es).memRead j n = s.memRead j n := rfl

/-! ### Results -/

theorem reply_eq (status : Status) (values : List Byte) : s.reply status values = s.answer (status.code :: values) := rfl

theorem replyIllegal_eq : s.replyIllegal = s.answer [0xFF] := rfl

theorem answer_eq (r : List Byte) : s.answer r = { s with out := s.out ++ [r] } := rfl

@[simp] theorem code_ok : Status.ok.code = 0x00 := rfl

@[simp] theorem code_busy : Status.busy.code = 0x01 := rfl

@[simp] theorem code_refusedPending : Status.refusedPending.code = 0x02 := rfl

@[simp] theorem code_illegal : Status.illegal.code = 0xFF := rfl

/-! ### Equality of states, field by field -/

/-- Two states are equal when every field of theirs is. -/
theorem state_ext {s t : State} (slots : ∀ k, s.slot k = t.slot k) (hmem : s.mem = t.mem)
    (hcurrent : s.current = t.current) (hrx : s.rx = t.rx) (htx : s.tx = t.tx) (hnow : s.now = t.now)
    (hreq : s.req = t.req) (hout : s.out = t.out) (hinputs : s.inputs = t.inputs) : s = t := by
  have h0 := slots .standard
  have h1 := slots .confirmation
  have h2 := slots .errorLog
  have h3 := slots .display
  cases s
  cases t
  simp_all [State.slot]

end Sys2Proof.Machine
end

