-- ==== Sys2Proof/Laws/Memory.lean ====
section
/-! SUPPORT. The slot-buffer space: what a read gives after a write, that every write keeps the canonical form, and
what zeroing and receiving a buffer do. -/

namespace Sys2Proof.Machine

open Sys2Proof

/-! ### Reading -/

@[simp] theorem read_nil (a : Nat) : Memory.read [] a = unlistedByte := rfl

theorem read_cons (c : Host.Cell) (m : Memory) (a : Nat) :
    Memory.read (c :: m) a = if c.1 = a then c.2 else Memory.read m a := rfl

theorem read_erase (m : Memory) (a b : Nat) :
    (Memory.erase m a).read b = if b = a then unlistedByte else m.read b := by
  induction m with
  | nil => simp [Memory.erase]
  | cons c m ih =>
    by_cases hc : c.1 = a
    · have hdrop : Memory.erase (c :: m) a = Memory.erase m a := by simp [Memory.erase, hc]
      rw [hdrop, ih, read_cons]
      by_cases hb : b = a
      · simp [hb]
      · simp [hb, hc, show ¬ a = b from fun h => hb h.symm]
    · have hkeep : Memory.erase (c :: m) a = c :: Memory.erase m a := by simp [Memory.erase, hc]
      rw [hkeep, read_cons, read_cons, ih]
      by_cases hb : c.1 = b
      · simp [hb, show b ≠ a from hb ▸ hc]
      · simp [hb]

theorem read_insert (m : Memory) (a b : Nat) (v : Byte) (fresh : ∀ c ∈ m, c.1 ≠ a) :
    (Memory.insert m a v).read b = if b = a then v else m.read b := by
  induction m with
  | nil => simp [Memory.insert, read_cons, eq_comm]
  | cons c m ih =>
    have hc : c.1 ≠ a := fresh c (by simp)
    have ih := ih (fun d hd => fresh d (by simp [hd]))
    unfold Memory.insert
    split
    · rw [read_cons]
      simp [eq_comm]
    · rw [read_cons, read_cons, ih]
      by_cases hb : c.1 = b
      · simp [hb, show b ≠ a from hb ▸ hc]
      · simp [hb]

theorem erase_fresh (m : Memory) (a : Nat) : ∀ c ∈ Memory.erase m a, c.1 ≠ a := by
  intro c hc
  simpa using (List.mem_filter.mp hc).2

/-- Read after write: the byte written at its address, every other address as before. -/
theorem read_write (m : Memory) (a b : Nat) (v : Byte) :
    (Memory.write m a v).read b = if b = a then v else m.read b := by
  unfold Memory.write
  split
  · next h => rw [read_erase, h]
  · rw [read_insert _ _ _ _ (erase_fresh m a), read_erase]
    by_cases hb : b = a <;> simp [hb]

/-! ### The canonical form -/

theorem mem_insert {m : Memory} {a : Nat} {v : Byte} {c : Host.Cell} (h : c ∈ Memory.insert m a v) :
    c = (a, v) ∨ c ∈ m := by
  induction m with
  | nil => simpa [Memory.insert] using h
  | cons d m ih =>
    unfold Memory.insert at h
    split at h
    · simpa using h
    · rcases List.mem_cons.mp h with rfl | h
      · simp
      · rcases ih h with rfl | h <;> simp [*]

theorem insert_sorted {m : Memory} {a : Nat} {v : Byte} (sorted : m.Pairwise (fun c d => c.1 < d.1))
    (fresh : ∀ c ∈ m, c.1 ≠ a) : (Memory.insert m a v).Pairwise (fun c d => c.1 < d.1) := by
  induction m with
  | nil => simp [Memory.insert]
  | cons c m ih =>
    obtain ⟨hc, hm⟩ := List.pairwise_cons.mp sorted
    have hca : c.1 ≠ a := fresh c (by simp)
    have rest := ih hm (fun d hd => fresh d (by simp [hd]))
    unfold Memory.insert
    split
    · next h =>
      refine List.pairwise_cons.mpr ⟨fun d hd => ?_, sorted⟩
      rcases List.mem_cons.mp hd with rfl | hd
      · exact h
      · exact h.trans (hc d hd)
    · next h =>
      refine List.pairwise_cons.mpr ⟨fun d hd => ?_, rest⟩
      rcases mem_insert hd with rfl | hd
      · show c.1 < a
        omega
      · exact hc d hd

theorem erase_wf {m : Memory} (h : m.wf) (a : Nat) : (Memory.erase m a).wf :=
  ⟨h.1.filter _, fun c hc => h.2 c (List.mem_filter.mp hc).1⟩

/-- Every write keeps the canonical form. -/
theorem write_wf {m : Memory} {a : Nat} {v : Byte} (h : m.wf) : (Memory.write m a v).wf := by
  unfold Memory.write
  split
  · exact erase_wf h a
  · next hv =>
    refine ⟨insert_sorted (erase_wf h a).1 (erase_fresh m a), fun c hc => ?_⟩
    rcases mem_insert hc with rfl | hc
    · exact hv
    · exact (erase_wf h a).2 c hc

/-- A write lists no address but the ones listed before and its own. -/
theorem mem_write {m : Memory} {a : Nat} {v : Byte} {c : Host.Cell} (h : c ∈ Memory.write m a v) :
    c.1 = a ∨ c ∈ m := by
  unfold Memory.write at h
  split at h
  · exact .inr (List.mem_filter.mp h).1
  · rcases mem_insert h with rfl | h
    · exact .inl rfl
    · exact .inr (List.mem_filter.mp h).1

/-- The reset memory is canonical. -/
theorem reset_mem_wf : State.reset.mem.wf := by decide

/-! ### Addresses -/

/-- Byte indices below 256 keep the slots' cells apart. -/
theorem slotAddr_eq_iff (k j : SlotId) (i n : Nat) (hi : i < 256) (hn : n < 256) :
    slotAddr k i = slotAddr j n ↔ k = j ∧ i = n := by
  cases k <;> cases j <;> simp [slotAddr, SlotId.index] <;> omega

/-- Every byte index of a buffer is below 256. -/
theorem size_lt (k : SlotId) : k.size < 256 := by cases k <;> decide

theorem size_pos (k : SlotId) : 0 < k.size := by cases k <;> decide

/-! ### Zeroing a buffer -/

/-- What zeroing `n` bytes does: those bytes read 0, every other address as before, and only the memory changes. -/
theorem zeroFrom_spec (k : SlotId) (i n : Nat) (s : State) :
    ∃ m, State.zeroFrom k i n s = { s with mem := m } ∧ (s.mem.wf → m.wf) ∧
      (∀ j, i ≤ j → j < i + n → m.read (slotAddr k j) = 0) ∧
      (∀ a, (∀ j, i ≤ j → j < i + n → a ≠ slotAddr k j) → m.read a = s.mem.read a) ∧
      (∀ c ∈ m, c ∈ s.mem ∨ ∃ j, i ≤ j ∧ j < i + n ∧ c.1 = slotAddr k j) := by
  induction n generalizing i s with
  | zero => exact ⟨s.mem, rfl, id, fun j _ _ => by omega, fun _ _ => rfl, fun c hc => .inl hc⟩
  | succ n ih =>
    obtain ⟨m, hm, hwf, hzero, hother, hlisted⟩ := ih (i + 1) (s.memWrite k i 0x00)
    simp only [mem_memWrite] at hwf hother hlisted
    refine ⟨m, hm, fun h => hwf (write_wf h), fun j h1 h2 => ?_, fun a ha => ?_, fun c hc => ?_⟩
    · by_cases hj : j = i
      · subst hj
        rw [hother _ (fun l h3 h4 => by unfold slotAddr; omega)]
        simp [read_write]
      · exact hzero j (by omega) (by omega)
    · rw [hother a (fun j h1 h2 => ha j (by omega) (by omega))]
      simp [read_write, ha i (le_refl i) (by omega)]
    · rcases hlisted c hc with hc | ⟨j, h1, h2, h3⟩
      · rcases mem_write (a := slotAddr k i) hc with h | h
        · exact .inr ⟨i, le_refl i, by omega, h⟩
        · exact .inl h
      · exact .inr ⟨j, by omega, by omega, h3⟩

/-- What zeroing a whole buffer does (42_receive_fsm.md R104, 44_controller.md R121). -/
theorem zeroBuffer_spec (s : State) (k : SlotId) :
    ∃ m, s.zeroBuffer k = { s with mem := m } ∧ (s.mem.wf → m.wf) ∧
      (∀ j, j < k.size → m.read (slotAddr k j) = 0) ∧
      (∀ a, (∀ j, j < k.size → a ≠ slotAddr k j) → m.read a = s.mem.read a) ∧
      (∀ c ∈ m, c ∈ s.mem ∨ ∃ j, j < k.size ∧ c.1 = slotAddr k j) := by
  obtain ⟨m, h1, h2, h3, h4, h5⟩ := zeroFrom_spec k 0 k.size s
  refine ⟨m, h1, h2, fun j hj => h3 j (by omega) (by omega), fun a ha => h4 a (fun j _ hj => ha j (by omega)),
    fun c hc => ?_⟩
  rcases h5 c hc with h | ⟨j, _, hj, h⟩
  · exact .inl h
  · exact .inr ⟨j, by omega, h⟩

/-! ### Receiving a buffer -/

/-- What receiving `n` bytes does when the stream holds them: byte `i + l` is the l-th oldest, exactly `n` bytes leave
the stream, every other address reads as before, and nothing else changes. -/
theorem receiveFrom_spec (k : SlotId) (i n : Nat) (s : State) (enough : n ≤ s.rx.length) :
    ∃ m, State.receiveFrom k i n s = { s with mem := m, rx := s.rx.drop n } ∧ (s.mem.wf → m.wf) ∧
      (∀ l, l < n → s.rx[l]? = some (m.read (slotAddr k (i + l)))) ∧
      (∀ a, (∀ j, i ≤ j → j < i + n → a ≠ slotAddr k j) → m.read a = s.mem.read a) ∧
      (∀ c ∈ m, c ∈ s.mem ∨ ∃ j, i ≤ j ∧ j < i + n ∧ c.1 = slotAddr k j) := by
  induction n generalizing i s with
  | zero => exact ⟨s.mem, rfl, id, fun l hl => by omega, fun _ _ => rfl, fun c hc => .inl hc⟩
  | succ n ih =>
    cases hrx : s.rx with
    | nil => simp [hrx] at enough
    | cons b rest =>
      obtain ⟨m, hm, hwf, hread, hother, hlisted⟩ := ih (i + 1) ({ s with rx := rest }.memWrite k i b)
        (by simpa [hrx] using enough)
      simp only [mem_memWrite, rx_memWrite] at hwf hread hother hlisted
      have hrun : State.receiveFrom k i (n + 1) s =
          State.receiveFrom k (i + 1) n ({ s with rx := rest }.memWrite k i b) := by
        simp [State.receiveFrom, State.rxRead, hrx]
      refine ⟨m, by rw [hrun, hm]; simp [State.memWrite], fun h => hwf (write_wf h), fun l hl => ?_,
        fun a ha => ?_, fun c hc => ?_⟩
      · cases l with
        | zero =>
          rw [hother _ (fun j h3 h4 => by unfold slotAddr; omega)]
          simp [read_write]
        | succ l =>
          have := hread l (by omega)
          simpa [hrx, show i + 1 + l = i + (l + 1) by omega] using this
      · rw [hother a (fun j h1 h2 => ha j (by omega) (by omega))]
        simp [read_write, ha i (le_refl i) (by omega)]
      · rcases hlisted c hc with hc | ⟨j, h1, h2, h3⟩
        · rcases mem_write hc with h | h
          · exact .inr ⟨i, le_refl i, by omega, h⟩
          · exact .inl h
        · exact .inr ⟨j, by omega, by omega, h3⟩

end Sys2Proof.Machine
end

