-- ==== Sys2Proof/Laws/Ops.lean ====
section
/-! SUPPORT. Once for each shared operation, everything it does: zeroing, ending a pending period, Timeout, Complete,
Abort, Acquire, Release, Issue, and the receive machine's cases. Later proofs cite these and unfold no operation. -/

namespace Sys2Proof.Machine

open Sys2Proof

variable (s : State)

/-! ### The memory of one slot, and the memory outside it -/

/-- Two states hold the same bytes outside slot k's buffer. -/
abbrev SameOutside (s t : State) (k : SlotId) : Prop :=
  ∀ a, (∀ i, i < k.size → a ≠ slotAddr k i) → t.mem.read a = s.mem.read a

/-- Every listed cell was listed before or belongs to slot k's buffer. -/
abbrev ListedWithin (s t : State) (k : SlotId) : Prop :=
  ∀ c ∈ t.mem, c ∈ s.mem ∨ ∃ i, i < k.size ∧ c.1 = slotAddr k i

/-! ### zeroBuffer -/

theorem slot_zeroBuffer (k j : SlotId) : (s.zeroBuffer k).slot j = s.slot j := by
  obtain ⟨m, h, -⟩ := zeroBuffer_spec s k
  rw [h]
  cases j <;> rfl

@[simp] theorem current_zeroBuffer (k : SlotId) : (s.zeroBuffer k).current = s.current := by obtain ⟨m, h, -⟩ := zeroBuffer_spec s k; rw [h]

@[simp] theorem rx_zeroBuffer (k : SlotId) : (s.zeroBuffer k).rx = s.rx := by obtain ⟨m, h, -⟩ := zeroBuffer_spec s k; rw [h]

@[simp] theorem tx_zeroBuffer (k : SlotId) : (s.zeroBuffer k).tx = s.tx := by obtain ⟨m, h, -⟩ := zeroBuffer_spec s k; rw [h]

@[simp] theorem now_zeroBuffer (k : SlotId) : (s.zeroBuffer k).now = s.now := by obtain ⟨m, h, -⟩ := zeroBuffer_spec s k; rw [h]

@[simp] theorem req_zeroBuffer (k : SlotId) : (s.zeroBuffer k).req = s.req := by obtain ⟨m, h, -⟩ := zeroBuffer_spec s k; rw [h]

@[simp] theorem out_zeroBuffer (k : SlotId) : (s.zeroBuffer k).out = s.out := by obtain ⟨m, h, -⟩ := zeroBuffer_spec s k; rw [h]

@[simp] theorem inputs_zeroBuffer (k : SlotId) : (s.zeroBuffer k).inputs = s.inputs := by obtain ⟨m, h, -⟩ := zeroBuffer_spec s k; rw [h]

theorem memRead_zeroBuffer (k : SlotId) (i : Nat) (hi : i < k.size) : (s.zeroBuffer k).memRead k i = 0 := by
  obtain ⟨m, h, -, hz, -⟩ := zeroBuffer_spec s k
  simpa [h, State.memRead] using hz i hi

theorem zeroBuffer_outside (k : SlotId) : SameOutside s (s.zeroBuffer k) k := by
  obtain ⟨m, h, -, -, ho, -⟩ := zeroBuffer_spec s k
  simpa [h] using ho

theorem zeroBuffer_wf (k : SlotId) (h : s.mem.wf) : (s.zeroBuffer k).mem.wf := by
  obtain ⟨m, hm, hw, -⟩ := zeroBuffer_spec s k
  simpa [hm] using hw h

theorem zeroBuffer_listed (k : SlotId) : ListedWithin s (s.zeroBuffer k) k := by
  obtain ⟨m, h, -, -, -, hl⟩ := zeroBuffer_spec s k
  simpa [h] using hl

/-! ### The timer and the end of a pending period -/

@[simp] theorem slot_timerStart (k j : SlotId) : (s.timerStart k).slot j =
    if j = k then { s.slot k with tmrArmed := true, tmrStart := s.now } else s.slot j := by
  simp [State.timerStart]

@[simp] theorem mem_timerStart (k : SlotId) : (s.timerStart k).mem = s.mem := by simp [State.timerStart]

@[simp] theorem current_timerStart (k : SlotId) : (s.timerStart k).current = s.current := by simp [State.timerStart]

@[simp] theorem rx_timerStart (k : SlotId) : (s.timerStart k).rx = s.rx := by simp [State.timerStart]

@[simp] theorem tx_timerStart (k : SlotId) : (s.timerStart k).tx = s.tx := by simp [State.timerStart]

@[simp] theorem now_timerStart (k : SlotId) : (s.timerStart k).now = s.now := by simp [State.timerStart]

@[simp] theorem req_timerStart (k : SlotId) : (s.timerStart k).req = s.req := by simp [State.timerStart]

@[simp] theorem out_timerStart (k : SlotId) : (s.timerStart k).out = s.out := by simp [State.timerStart]

@[simp] theorem inputs_timerStart (k : SlotId) : (s.timerStart k).inputs = s.inputs := by simp [State.timerStart]

@[simp] theorem slot_timerStop (k j : SlotId) :
    (s.timerStop k).slot j = if j = k then { s.slot k with tmrArmed := false } else s.slot j := by
  simp [State.timerStop]

@[simp] theorem mem_timerStop (k : SlotId) : (s.timerStop k).mem = s.mem := by simp [State.timerStop]

@[simp] theorem current_timerStop (k : SlotId) : (s.timerStop k).current = s.current := by simp [State.timerStop]

@[simp] theorem rx_timerStop (k : SlotId) : (s.timerStop k).rx = s.rx := by simp [State.timerStop]

@[simp] theorem tx_timerStop (k : SlotId) : (s.timerStop k).tx = s.tx := by simp [State.timerStop]

@[simp] theorem now_timerStop (k : SlotId) : (s.timerStop k).now = s.now := by simp [State.timerStop]

@[simp] theorem req_timerStop (k : SlotId) : (s.timerStop k).req = s.req := by simp [State.timerStop]

@[simp] theorem out_timerStop (k : SlotId) : (s.timerStop k).out = s.out := by simp [State.timerStop]

@[simp] theorem inputs_timerStop (k : SlotId) : (s.timerStop k).inputs = s.inputs := by simp [State.timerStop]

@[simp] theorem slot_settle (k j : SlotId) (r : Bool) : (s.settle k r).slot j =
    if j = k then { s.slot k with pending := false, rcvd := r, tmrArmed := false } else s.slot j := by
  by_cases h : j = k <;> simp [State.settle, h]

@[simp] theorem mem_settle (k : SlotId) (r : Bool) : (s.settle k r).mem = s.mem := by simp [State.settle]

@[simp] theorem current_settle (k : SlotId) (r : Bool) : (s.settle k r).current = s.current := by simp [State.settle]

@[simp] theorem rx_settle (k : SlotId) (r : Bool) : (s.settle k r).rx = s.rx := by simp [State.settle]

@[simp] theorem tx_settle (k : SlotId) (r : Bool) : (s.settle k r).tx = s.tx := by simp [State.settle]

@[simp] theorem now_settle (k : SlotId) (r : Bool) : (s.settle k r).now = s.now := by simp [State.settle]

@[simp] theorem req_settle (k : SlotId) (r : Bool) : (s.settle k r).req = s.req := by simp [State.settle]

@[simp] theorem out_settle (k : SlotId) (r : Bool) : (s.settle k r).out = s.out := by simp [State.settle]

@[simp] theorem inputs_settle (k : SlotId) (r : Bool) : (s.settle k r).inputs = s.inputs := by simp [State.settle]

/-! ### Timeout, Abort -/

@[simp] theorem slot_timeout (k j : SlotId) : (s.timeout k).slot j =
    if j = k then { s.slot k with pending := false, rcvd := false, tmrArmed := false } else s.slot j := by
  simp [State.timeout, slot_zeroBuffer]

theorem mem_timeout (k : SlotId) : (s.timeout k).mem = (s.rxFlush.zeroBuffer k).mem := by simp [State.timeout]

@[simp] theorem current_timeout (k : SlotId) : (s.timeout k).current = s.current := by simp [State.timeout]

@[simp] theorem rx_timeout (k : SlotId) : (s.timeout k).rx = [] := by simp [State.timeout]

@[simp] theorem tx_timeout (k : SlotId) : (s.timeout k).tx = s.tx := by simp [State.timeout]

@[simp] theorem now_timeout (k : SlotId) : (s.timeout k).now = s.now := by simp [State.timeout]

@[simp] theorem req_timeout (k : SlotId) : (s.timeout k).req = s.req := by simp [State.timeout]

@[simp] theorem out_timeout (k : SlotId) : (s.timeout k).out = s.out := by simp [State.timeout]

@[simp] theorem inputs_timeout (k : SlotId) : (s.timeout k).inputs = s.inputs := by simp [State.timeout]

@[simp] theorem slot_abort (k j : SlotId) : (s.abort k).slot j =
    if j = k then { s.slot k with pending := false, rcvd := false, tmrArmed := false } else s.slot j := by
  simp [State.abort]

@[simp] theorem mem_abort (k : SlotId) : (s.abort k).mem = s.mem := by simp [State.abort]

@[simp] theorem current_abort (k : SlotId) : (s.abort k).current = s.current := by simp [State.abort]

@[simp] theorem rx_abort (k : SlotId) : (s.abort k).rx = [] := by simp [State.abort]

@[simp] theorem tx_abort (k : SlotId) : (s.abort k).tx = s.tx := by simp [State.abort]

@[simp] theorem now_abort (k : SlotId) : (s.abort k).now = s.now := by simp [State.abort]

@[simp] theorem req_abort (k : SlotId) : (s.abort k).req = s.req := by simp [State.abort]

@[simp] theorem out_abort (k : SlotId) : (s.abort k).out = s.out := by simp [State.abort]

@[simp] theorem inputs_abort (k : SlotId) : (s.abort k).inputs = s.inputs := by simp [State.abort]

/-! ### Complete -/

/-- Everything Complete does when the stream holds the frame (42_receive_fsm.md R105, 20_memory.md R49). -/
theorem complete_spec (k : SlotId) (enough : k.size ≤ s.rx.length) :
    (∀ j, (s.complete k).slot j =
      if j = k then { s.slot k with pending := false, rcvd := true, tmrArmed := false } else s.slot j) ∧
    (∀ i, i < k.size → s.rx[i]? = some ((s.complete k).memRead k i)) ∧
    SameOutside s (s.complete k) k ∧
    (s.mem.wf → (s.complete k).mem.wf) ∧
    ListedWithin s (s.complete k) k ∧
    (s.complete k).rx = s.rx.drop k.size ∧
    (s.complete k).current = s.current ∧ (s.complete k).tx = s.tx ∧ (s.complete k).now = s.now ∧
    (s.complete k).req = s.req ∧ (s.complete k).out = s.out ∧ (s.complete k).inputs = s.inputs := by
  obtain ⟨m, h, hw, hr, ho, hl⟩ := receiveFrom_spec k 0 k.size s enough
  refine ⟨fun j => ?_, fun i hi => ?_, fun a ha => ?_, fun hs => ?_, fun c hc => ?_, ?_⟩
  · rw [State.complete, h, slot_settle]
    cases j <;> cases k <;> rfl
  · simpa [State.complete, h, State.memRead] using hr i hi
  · simpa [State.complete, h] using ho a (fun j _ hj => ha j (by omega))
  · simpa [State.complete, h] using hw hs
  · rcases hl c (by simpa [State.complete, h] using hc) with hc | ⟨j, -, hj, e⟩
    · exact .inl hc
    · exact .inr ⟨j, by omega, e⟩
  · simp [State.complete, h]

/-! ### Acquire and Release -/

@[simp] theorem slot_acquire (k j : SlotId) : (s.acquire k).slot j =
    if j = k then { s.slot k with used := true, pending := true, rcvd := false, tmrArmed := false }
    else s.slot j := by
  by_cases h : j = k <;> simp [State.acquire, slot_zeroBuffer, h]

@[simp] theorem current_acquire (k : SlotId) : (s.acquire k).current = some k := by simp [State.acquire]

@[simp] theorem rx_acquire (k : SlotId) : (s.acquire k).rx = s.rx := by simp [State.acquire]

@[simp] theorem tx_acquire (k : SlotId) : (s.acquire k).tx = s.tx := by simp [State.acquire]

@[simp] theorem now_acquire (k : SlotId) : (s.acquire k).now = s.now := by simp [State.acquire]

@[simp] theorem req_acquire (k : SlotId) : (s.acquire k).req = s.req := by simp [State.acquire]

@[simp] theorem out_acquire (k : SlotId) : (s.acquire k).out = s.out := by simp [State.acquire]

@[simp] theorem inputs_acquire (k : SlotId) : (s.acquire k).inputs = s.inputs := by simp [State.acquire]

/-- What Acquire does to the memory: slot k's buffer reads 0, every other address as before (44_controller.md R121). -/
theorem mem_acquire (k : SlotId) :
    (∀ i, i < k.size → (s.acquire k).memRead k i = 0) ∧ SameOutside s (s.acquire k) k ∧
    (s.mem.wf → (s.acquire k).mem.wf) ∧ ListedWithin s (s.acquire k) k := by
  let u := (s.setSlot k { s.slot k with used := true, pending := true, rcvd := false }).timerStop k
  have hu : u.mem = s.mem := by simp [u]
  have ha : (s.acquire k).mem = (u.zeroBuffer k).mem := rfl
  refine ⟨fun i hi => memRead_zeroBuffer u k i hi, fun a h => ?_, fun h => ?_, fun c hc => ?_⟩
  · rw [ha, zeroBuffer_outside u k a h, hu]
  · rw [ha]
    exact zeroBuffer_wf u k (by rwa [hu])
  · rw [ha] at hc
    have := zeroBuffer_listed u k c hc
    rwa [hu] at this

@[simp] theorem slot_releaseSlot (k j : SlotId) :
    (s.releaseSlot k).slot j = if j = k then { s.slot k with used := false } else s.slot j := by
  simp [State.releaseSlot]

@[simp] theorem mem_releaseSlot (k : SlotId) : (s.releaseSlot k).mem = s.mem := by simp [State.releaseSlot]

@[simp] theorem current_releaseSlot (k : SlotId) : (s.releaseSlot k).current = if s.current = some k then none else s.current := by simp [State.releaseSlot]

@[simp] theorem rx_releaseSlot (k : SlotId) : (s.releaseSlot k).rx = s.rx := by simp [State.releaseSlot]

@[simp] theorem tx_releaseSlot (k : SlotId) : (s.releaseSlot k).tx = s.tx := by simp [State.releaseSlot]

@[simp] theorem now_releaseSlot (k : SlotId) : (s.releaseSlot k).now = s.now := by simp [State.releaseSlot]

@[simp] theorem req_releaseSlot (k : SlotId) : (s.releaseSlot k).req = s.req := by simp [State.releaseSlot]

@[simp] theorem out_releaseSlot (k : SlotId) : (s.releaseSlot k).out = s.out := by simp [State.releaseSlot]

@[simp] theorem inputs_releaseSlot (k : SlotId) : (s.releaseSlot k).inputs = s.inputs := by simp [State.releaseSlot]

/-! ### Issue -/

theorem issue_busy {s : State} {k : SlotId} (h : s.busy k = true) (cmd : Byte) (reg data : Half) :
    s.issue k cmd reg data = s.reply .busy [] := by
  simp [State.issue, h]

theorem issue_free {s : State} {k : SlotId} (h : s.busy k = false) (cmd : Byte) (reg data : Half) :
    s.issue k cmd reg data =
      ((s.txWrite (encodeFrame Config.devAddr cmd reg data)).acquire k).reply .ok [k.byte] := by
  simp [State.issue, h]

/-- Both policies refuse an issue while any slot is pending, given that a pending slot is the current one. -/
theorem busy_of_pending {s : State} {j : SlotId} (k : SlotId) (h : (s.slot j).pending = true)
    (hcur : s.current = some j) : s.busy k = true := by
  unfold State.busy
  cases Config.arbPolicy with
  | untilRelease => simp [State.busyUnder, hcur]
  | pendingOnly => cases j <;> simp_all [State.busyUnder, State.anyPending, State.slot]

/-! ### The receive machine -/

/-- Everything one evaluation of the receive machine can do (42_receive_fsm.md R103). Step 2 never applies. -/
theorem pollSlot_cases (k : SlotId) :
    ((s.slot k).pending = false ∧ s.pollSlot k = s) ∨
    ((s.slot k).pending = true ∧ (s.slot k).tmrArmed = false ∧ s.pollSlot k = s.timerStart k) ∨
    ((s.slot k).pending = true ∧ (s.slot k).tmrArmed = true ∧ s.elapsed k = true ∧ s.pollSlot k = s.timeout k) ∨
    ((s.slot k).pending = true ∧ (s.slot k).tmrArmed = true ∧ s.elapsed k = false ∧ k.size ≤ s.rx.length ∧
      s.pollSlot k = s.complete k) ∨
    ((s.slot k).pending = true ∧ (s.slot k).tmrArmed = true ∧ s.elapsed k = false ∧ s.rx.length < k.size ∧
      s.pollSlot k = s) := by
  have hsize : k.size ≠ 0 := (size_pos k).ne'
  unfold State.pollSlot State.rxAvail
  cases (s.slot k).pending <;> cases (s.slot k).tmrArmed <;> cases s.elapsed k <;>
    by_cases h : k.size ≤ s.rx.length <;> simp [hsize, h, Nat.lt_of_not_le]

/-! ### Operand domains -/

@[simp] theorem ofByte_byte (k : SlotId) : SlotId.ofByte k.byte = some k := by cases k <;> rfl

/-- The slot operand's domain is 0 to 3 (30_encoding.md R65). -/
theorem ofByte_eq_none_iff (k : Byte) : SlotId.ofByte k = none ↔ 4 ≤ k.toNat := by
  revert k
  decide

theorem ofByte_eq_some {k : Byte} {j : SlotId} (h : SlotId.ofByte k = some j) : k = j.byte := by
  revert k j
  decide

@[simp] theorem onSlot_byte (k : SlotId) (run : SlotId → State) : s.onSlot k.byte run = run k := by
  simp [State.onSlot]

theorem onSlot_none {k : Byte} (h : 4 ≤ k.toNat) (run : SlotId → State) : s.onSlot k run = s.replyIllegal := by
  simp [State.onSlot, (ofByte_eq_none_iff k).mpr h]

/-- The twelve positions are twelve bytes. -/
theorem position_injective {c d : CmdId} (h : BitVec.ofNat 8 c.position = BitVec.ofNat 8 d.position) : c = d := by
  cases c <;> cases d <;> first | rfl | exact absurd h (by decide)

end Sys2Proof.Machine
end

