-- ==== Sys2Proof/Laws/Exec.lean ====
section
/-! SUPPORT. Once for every instruction, what its meaning can do: answer in the same state, drive the receive machine,
acquire a slot after sending a frame, or release a slot. Claims over all instructions cite this and unfold no
meaning. -/

namespace Sys2Proof.Machine

open Sys2Proof

/-- Every way an instruction's meaning ends: it answers `status :: values` in a state `u` that is s itself, or s after
the one effect of POLL, of an accepted issue, or of an effective RELEASE. -/
inductive ExecEffect (i : Instr) (s : State) : State → Status → List Byte → Prop
  /-- Nothing but the answer. A status other than OK carries no values. -/
  | same (status : Status) (values : List Byte) (h : status ≠ .ok → values = []) : ExecEffect i s s status values
  /-- POLL (42_receive_fsm.md R103). -/
  | poll (h : i = .poll) : ExecEffect i s s.pollCurrent .ok []
  /-- An accepted issue (44_controller.md R122). -/
  | issued (k : SlotId) (cmd : Byte) (reg data : Half) (h : issueSlot i = some k) (free : s.busy k = false) :
      ExecEffect i s ((s.txWrite (encodeFrame Config.devAddr cmd reg data)).acquire k) .ok [k.byte]
  /-- RELEASE of a slot that is not pending (44_controller.md R129). -/
  | released (k : SlotId) (h : i = .release k.byte) (settled : (s.slot k).pending = false) :
      ExecEffect i s (s.releaseSlot k) .ok []

variable {i : Instr} {s : State}

theorem effect_issue {k : SlotId} {cmd : Byte} {reg data : Half} (hi : issueSlot i = some k)
    (he : exec i s = .next (s.issue k cmd reg data)) :
    ∃ u status values, exec i s = .next (u.reply status values) ∧ ExecEffect i s u status values := by
  cases hb : s.busy k
  · exact ⟨_, _, _, by rw [he, issue_free hb], .issued k cmd reg data hi hb⟩
  · exact ⟨_, _, _, by rw [he, issue_busy hb], .same _ _ (fun _ => rfl)⟩

theorem effect_plain {values : List Byte} (he : exec i s = .next (s.reply .ok values)) :
    ∃ u status values, exec i s = .next (u.reply status values) ∧ ExecEffect i s u status values :=
  ⟨_, _, _, he, .same _ _ (fun h => absurd rfl h)⟩

theorem effect_illegal (he : exec i s = .next s.replyIllegal) :
    ∃ u status values, exec i s = .next (u.reply status values) ∧ ExecEffect i s u status values :=
  ⟨_, _, _, he, .same _ _ (fun _ => rfl)⟩

/-- An operation that reads a slot answers a value of it, or ILLEGAL. -/
theorem effect_onSlot {k : Byte} {values : SlotId → List Byte}
    (he : exec i s = .next (s.onSlot k (fun j => s.reply .ok (values j)))) :
    ∃ u status values, exec i s = .next (u.reply status values) ∧ ExecEffect i s u status values := by
  cases hk : SlotId.ofByte k with
  | none => exact effect_illegal (by simp [he, State.onSlot, hk])
  | some j => exact effect_plain (values := values j) (by simp [he, State.onSlot, hk])

/-- What every instruction's meaning can do. -/
theorem exec_cases (i : Instr) (s : State) :
    ∃ u status values, exec i s = .next (u.reply status values) ∧ ExecEffect i s u status values := by
  cases i with
  | nop => exact effect_plain rfl
  | csum _ => exact effect_plain rfl
  | chkframe _ => exact effect_plain rfl
  | encode _ _ _ _ => exact effect_plain rfl
  | decode16 _ _ _ => exact effect_plain rfl
  | rdReg cmd reg =>
    by_cases h : isIdOf readRegisterIds cmd = true
    · exact effect_issue rfl (by simp only [exec, execRdReg, h]; rfl)
    · exact effect_illegal (by simp [exec, execRdReg, h])
  | wrReg cmd reg data =>
    by_cases h : isIdOf writeRegisterIds cmd = true
    · exact effect_issue rfl (by simp only [exec, execWrReg, h]; rfl)
    · exact effect_illegal (by simp [exec, execWrReg, h])
  | rdLastErr => exact effect_issue rfl rfl
  | rdPrevErr => exact effect_issue rfl rfl
  | rdVersion => exact effect_issue rfl rfl
  | rdDisplay _ => exact effect_issue rfl rfl
  | poll => exact ⟨_, _, _, rfl, .poll rfl⟩
  | release k =>
    cases hk : SlotId.ofByte k with
    | none => exact effect_illegal (by simp [exec, execRelease, State.onSlot, hk])
    | some j =>
      cases hp : (s.slot j).pending
      · exact ⟨_, _, _, by simp only [exec, execRelease, State.onSlot, hk, hp]; rfl,
          .released j (by rw [ofByte_eq_some hk]) hp⟩
      · exact ⟨s, .refusedPending, [], by simp [exec, execRelease, State.onSlot, hk, hp], .same _ _ (fun _ => rfl)⟩
  | isUsed k => exact effect_onSlot (values := fun j => [bitByte (s.slot j).used]) rfl
  | isPending k => exact effect_onSlot (values := fun j => [bitByte (s.slot j).pending]) rfl
  | isValid k => exact effect_onSlot (values := fun j => [bitByte (s.valid j)]) rfl
  | getDevaddr k => exact effect_onSlot (values := fun j => [s.memRead j 0]) rfl
  | readBuf k n =>
    cases hk : SlotId.ofByte k with
    | none => exact effect_illegal (by simp [exec, execReadBuf, State.onSlot, hk])
    | some j =>
      by_cases h : n.toNat < j.size
      · exact effect_plain (values := [s.memRead j n.toNat]) (by simp [exec, execReadBuf, State.onSlot, hk, h])
      · exact effect_illegal (by simp [exec, execReadBuf, State.onSlot, hk, h])
  | getValue => exact effect_plain rfl
  | getErrId => exact effect_plain rfl
  | getErrLog => exact effect_plain rfl
  | getDisplay => exact effect_plain rfl

/-- What POLL does: nothing, or one evaluation of the current slot's receive machine (42_receive_fsm.md R103). -/
theorem pollCurrent_cases (s : State) :
    (s.current = none ∧ s.pollCurrent = s) ∨ ∃ k, s.current = some k ∧ s.pollCurrent = s.pollSlot k := by
  unfold State.pollCurrent
  cases s.current with
  | none => exact .inl ⟨rfl, rfl⟩
  | some k => exact .inr ⟨k, rfl, rfl⟩

end Sys2Proof.Machine
end

