-- ==== Sys2Proof/Laws/PerInstr.lean ====
section
/-! SUPPORT. A statement about every instruction as syntax, one lemma per constructor: the encoding of a well-formed
instruction has exactly the length that its own bytes announce (30_encoding.md R60, R61). -/

namespace Sys2Proof.Laws.EncodedLength

open Sys2Proof

/-- The bytes of a well-formed instruction announce their own number, whatever follows them on the port. -/
def Statement (i : Instr) : Prop :=
  i.WellFormed → ∀ later, requestLength (encode i ++ later) = some (encode i).length

theorem nop : Statement .nop := fun _ _ => rfl

theorem csum (bytes : List Byte) : Statement (.csum bytes) := fun h later => requestLength_list .csum (by decide) rfl (by simpa [Instr.WellFormed, Instr.wellFormed] using h) later

theorem chkframe (bytes : List Byte) : Statement (.chkframe bytes) := fun h later => requestLength_list .chkframe (by decide) rfl (by simpa [Instr.WellFormed, Instr.wellFormed] using h) later

theorem encode (dev cmd : Byte) (reg data : Half) : Statement (.encode dev cmd reg data) := fun _ _ => rfl

theorem decode16 (g2 g1 g0 : Byte) : Statement (.decode16 g2 g1 g0) := fun _ _ => rfl

theorem rdReg (cmd : Byte) (reg : Half) : Statement (.rdReg cmd reg) := fun _ _ => rfl

theorem wrReg (cmd : Byte) (reg data : Half) : Statement (.wrReg cmd reg data) := fun _ _ => rfl

theorem rdLastErr : Statement .rdLastErr := fun _ _ => rfl

theorem rdPrevErr : Statement .rdPrevErr := fun _ _ => rfl

theorem rdVersion : Statement .rdVersion := fun _ _ => rfl

theorem rdDisplay (reg : Half) : Statement (.rdDisplay reg) := fun _ _ => rfl

theorem poll : Statement .poll := fun _ _ => rfl

theorem release (k : Byte) : Statement (.release k) := fun _ _ => rfl

theorem isUsed (k : Byte) : Statement (.isUsed k) := fun _ _ => rfl

theorem isPending (k : Byte) : Statement (.isPending k) := fun _ _ => rfl

theorem isValid (k : Byte) : Statement (.isValid k) := fun _ _ => rfl

theorem getDevaddr (k : Byte) : Statement (.getDevaddr k) := fun _ _ => rfl

theorem readBuf (k i : Byte) : Statement (.readBuf k i) := fun _ _ => rfl

theorem getValue : Statement .getValue := fun _ _ => rfl

theorem getErrId : Statement .getErrId := fun _ _ => rfl

theorem getErrLog : Statement .getErrLog := fun _ _ => rfl

theorem getDisplay : Statement .getDisplay := fun _ _ => rfl

end Sys2Proof.Laws.EncodedLength
end

