-- ==== Sys2Proof/Laws/Step.lean ====
section
/-! SUPPORT. Once for the step function, everything a step can do. -/

namespace Sys2Proof.Machine

open Sys2Proof

/-- A step that answers a next state ran the decoded request, or answered an unassigned opcode, or let the next
environment event land. -/
theorem step_cases {s t : State} (h : step s = .next t) :
    (∃ i later, decode s.req = .request i later ∧ exec i (s.withReq later) = .next t) ∨
    (∃ op later, decode s.req = .illegal op later ∧ t = (s.withReq later).replyIllegal) ∨
    (decode s.req = .incomplete ∧ ∃ e later, s.inputs = e :: later ∧ t = (s.withInputs later).land e) := by
  unfold step at h
  split at h
  · next i later hd => exact .inl ⟨i, later, hd, h⟩
  · next op later hd => exact .inr (.inl ⟨op, later, hd, (Host.Outcome.next.inj h).symm⟩)
  · next hd =>
    split at h
    · cases h
    · next e later he => exact .inr (.inr ⟨hd, e, later, he, (Host.Outcome.next.inj h).symm⟩)

end Sys2Proof.Machine
end

