-- ==== Sys2Proof/Machine/Assembler.lean ====
section
/-! DEFINITION. The assembly form of a request (30_encoding.md R71) and the pseudo-instructions (R72): one source line
to one instruction, none where the line is no request. A line is a list of characters. Number and spacing details the
rule does not give, and where a parameter may be written by its name: log entry 14. The block never reads this form; the request bytes are `encode` of the result. -/

namespace Sys2Proof

/-- The mnemonic column of the opcode map (30_encoding.md R63). -/
def Op.mnemonic : Op → String
  | .nop => "NOP"
  | .csum => "CSUM"
  | .chkframe => "CHKFRAME"
  | .encode => "ENCODE"
  | .decode16 => "DECODE16"
  | .rdReg => "RD_REG"
  | .wrReg => "WR_REG"
  | .rdLastErr => "RD_LAST_ERR"
  | .rdPrevErr => "RD_PREV_ERR"
  | .rdVersion => "RD_VERSION"
  | .rdDisplay => "RD_DISPLAY"
  | .poll => "POLL"
  | .release => "RELEASE"
  | .isUsed => "IS_USED"
  | .isPending => "IS_PENDING"
  | .isValid => "IS_VALID"
  | .getDevaddr => "GET_DEVADDR"
  | .readBuf => "READ_BUF"
  | .getValue => "GET_VALUE"
  | .getErrId => "GET_ERR_ID"
  | .getErrLog => "GET_ERR_LOG"
  | .getDisplay => "GET_DISPLAY"

/-- The parameter names a command-id operand may be written by (00_scope.md R4, 30_encoding.md R71). -/
def CmdId.name : CmdId → String
  | .readFrontPanel => "CMD_READ_FRONT_PANEL"
  | .writeFrontPanel => "CMD_WRITE_FRONT_PANEL"
  | .readSystemReg => "CMD_READ_SYSTEM_REG"
  | .writeSystemReg => "CMD_WRITE_SYSTEM_REG"
  | .readTimerReg => "CMD_READ_TIMER_REG"
  | .writeTimerReg => "CMD_WRITE_TIMER_REG"
  | .readRegExtra => "CMD_READ_REG_EXTRA"
  | .writeRegExtra => "CMD_WRITE_REG_EXTRA"
  | .readDisplay => "CMD_READ_DISPLAY"
  | .readLastError => "CMD_READ_LAST_ERROR"
  | .readPrevError => "CMD_READ_PREV_ERROR"
  | .readFwVersion => "CMD_READ_FW_VERSION"

/-- The twelve command ids (00_scope.md R4). -/
def CmdId.all : List CmdId :=
  [.readFrontPanel, .writeFrontPanel, .readSystemReg, .writeSystemReg, .readTimerReg, .writeTimerReg, .readRegExtra,
   .writeRegExtra, .readDisplay, .readLastError, .readPrevError, .readFwVersion]

namespace Machine

/-- The pseudo-instructions that give RD_REG or WR_REG its command id (30_encoding.md R72). -/
def pseudoRegister : List (String × Op × CmdId) :=
  [("RD_FRONTPANEL", .rdReg, .readFrontPanel), ("RD_SYSREG", .rdReg, .readSystemReg),
   ("RD_TIMERREG", .rdReg, .readTimerReg), ("RD_EXTRAREG", .rdReg, .readRegExtra),
   ("WR_FRONTPANEL", .wrReg, .writeFrontPanel), ("WR_SYSREG", .wrReg, .writeSystemReg),
   ("WR_TIMERREG", .wrReg, .writeTimerReg), ("WR_EXTRAREG", .wrReg, .writeRegExtra)]

/-- The pseudo-instructions that name the slot of a RELEASE (30_encoding.md R72). -/
def pseudoRelease : List (String × SlotId) :=
  [("RELEASE_STD", .standard), ("RELEASE_CONF", .confirmation), ("RELEASE_ERR", .errorLog),
   ("RELEASE_DISP", .display)]

/-- The value of a digit. -/
def digitValue (c : Char) : Option Nat :=
  if '0' ≤ c ∧ c ≤ '9' then some (c.toNat - '0'.toNat)
  else if 'a' ≤ c ∧ c ≤ 'f' then some (c.toNat - 'a'.toNat + 10)
  else if 'A' ≤ c ∧ c ≤ 'F' then some (c.toNat - 'A'.toNat + 10)
  else none

/-- The value of a row of digits in a base, after a value already read. -/
def digitsFrom (base acc : Nat) : List Char → Option Nat
  | [] => some acc
  | c :: rest =>
    match digitValue c with
    | none => none
    | some d => if d < base then digitsFrom base (base * acc + d) rest else none

/-- A number: hexadecimal after `0x` (00_scope.md R11), else decimal. -/
def numberValue : List Char → Option Nat
  | [] => none
  | ['0', 'x'] => none
  | '0' :: 'x' :: rest => digitsFrom 16 0 rest
  | cs => digitsFrom 10 0 cs

/-- The parameters an operand may be written by (00_scope.md R3, R4), with their values. 30_encoding.md R71 grants names
to command ids. The two addresses are DEDUCED from the lines `ENCODE DEV_ADDR, ...` of 41_frame_codec.md R92 and
`CHKFRAME [HOST_ADDR, ...]` of 40_checksum.md R83 (log entry 14). -/
def parameterNames : List (String × Byte) :=
  CmdId.all.map (fun c => (c.name, Config.cmdId c)) ++ [("DEV_ADDR", Config.devAddr), ("HOST_ADDR", Config.hostAddr)]

/-- An operand: a number, or a parameter by its name. 30_encoding.md R71 grants a command id's name to a command-id
operand and is silent on the others (dev, reg, data, k, i, a byte of a list), and it says nothing of the names of the
two addresses; that every operand may be written by each of these names, with the parameter's value, is the model's
DESIGN CHOICE (log entry 14). -/
def operandValue (cs : List Char) : Option Nat :=
  match parameterNames.find? (fun p => p.1.toList == cs) with
  | some p => some p.2.toNat
  | none => numberValue cs

/-- The text without spaces at its ends. -/
def trimSpaces (cs : List Char) : List Char :=
  ((cs.dropWhile (· == ' ')).reverse.dropWhile (· == ' ')).reverse

/-- The pieces between commas, given the piece being read. -/
def splitCommas (piece : List Char) : List Char → List (List Char)
  | [] => [piece]
  | c :: rest => if c = ',' then piece :: splitCommas [] rest else splitCommas (piece ++ [c]) rest

/-- The values of a comma-separated operand list; no text is no operand. -/
def operandValues (cs : List Char) : Option (List Nat) :=
  if trimSpaces cs = [] then some [] else (splitCommas [] cs).mapM (fun p => operandValue (trimSpaces p))

/-- The text inside a bracketed list (R71, format FL). -/
def bracketed (cs : List Char) : Option (List Char) :=
  match cs with
  | '[' :: rest => if rest.getLast? = some ']' then some rest.dropLast else none
  | _ => none

/-- A value that fits a byte field. -/
def asByte (v : Nat) : Option Byte := if v < 256 then some (BitVec.ofNat 8 v) else none

/-- A value that fits a 16-bit field. -/
def asHalf (v : Nat) : Option Half := if v < 65536 then some (BitVec.ofNat 16 v) else none

/-- A format FL instruction from its list (30_encoding.md R60): at most 255 bytes. -/
def listInstr (mk : List Byte → Instr) (vs : List Nat) : Option Instr := do
  let bytes ← vs.mapM asByte
  if (mk bytes).wellFormed then some (mk bytes) else none

/-- The instruction of an operation and its operand values, in the order of the format's layout (R71). -/
def instrOf (op : Op) (vs : List Nat) : Option Instr :=
  match op, vs with
  | .nop, [] => some .nop
  | .csum, vs => listInstr .csum vs
  | .chkframe, vs => listInstr .chkframe vs
  | .encode, [dev, cmd, reg, data] => do
    some (.encode (← asByte dev) (← asByte cmd) (← asHalf reg) (← asHalf data))
  | .decode16, [g2, g1, g0] => do some (.decode16 (← asByte g2) (← asByte g1) (← asByte g0))
  | .rdReg, [cmd, reg] => do some (.rdReg (← asByte cmd) (← asHalf reg))
  | .wrReg, [cmd, reg, data] => do some (.wrReg (← asByte cmd) (← asHalf reg) (← asHalf data))
  | .rdLastErr, [] => some .rdLastErr
  | .rdPrevErr, [] => some .rdPrevErr
  | .rdVersion, [] => some .rdVersion
  | .rdDisplay, [reg] => do some (.rdDisplay (← asHalf reg))
  | .poll, [] => some .poll
  | .release, [k] => do some (.release (← asByte k))
  | .isUsed, [k] => do some (.isUsed (← asByte k))
  | .isPending, [k] => do some (.isPending (← asByte k))
  | .isValid, [k] => do some (.isValid (← asByte k))
  | .getDevaddr, [k] => do some (.getDevaddr (← asByte k))
  | .readBuf, [k, i] => do some (.readBuf (← asByte k) (← asByte i))
  | .getValue, [] => some .getValue
  | .getErrId, [] => some .getErrId
  | .getErrLog, [] => some .getErrLog
  | .getDisplay, [] => some .getDisplay
  | _, _ => none

/-- The operation, and the operands it already has, that a mnemonic or a pseudo-instruction's name stands for
(30_encoding.md R71, R72). -/
def mnemonicMeaning (cs : List Char) : Option (Op × List Nat) :=
  match Op.all.find? (fun op => op.mnemonic.toList == cs) with
  | some op => some (op, [])
  | none =>
    match pseudoRegister.find? (fun p => p.1.toList == cs) with
    | some p => some (p.2.1, [(Config.cmdId p.2.2).toNat])
    | none =>
      match pseudoRelease.find? (fun p => p.1.toList == cs) with
      | some p => some (.release, [p.2.index])
      | none => none

/-- The text of a line without its comment, which `;` starts (R71). -/
def lineText (line : List Char) : List Char := trimSpaces (line.takeWhile (· ≠ ';'))

/-- One source line to one instruction (30_encoding.md R71, R72): the mnemonic, a space, the operands. -/
def assemble (line : List Char) : Option Instr := do
  let text := lineText line
  let (op, given) ← mnemonicMeaning (text.takeWhile (· ≠ ' '))
  let args := trimSpaces (text.dropWhile (· ≠ ' '))
  let values ← if op.format = .fl then (bracketed args).bind operandValues else operandValues args
  instrOf op (given ++ values)

end Machine

end Sys2Proof
end

