-- ==== Sys2Proof/Tests/Slice0.lean ====
section
/-! SUPPORT. Tests: the check of WellFormed refuses, requests written out from 30_encoding.md decode, the vectors of
95_test_vectors.md (cited by id), and for every statement with hypotheses a witness that meets them. -/

namespace Sys2Proof.Tests

open Sys2Proof Sys2Proof.Machine

/-! ### Helpers -/

/-- The last result a meaning's next state holds. -/
def lastOut : Answer → Option (List Byte)
  | .next t => t.out.getLast?
  | .fault _ => none
  | .refused _ => none

/-- A property of the next state. -/
def after (a : Answer) (p : State → Bool) : Bool :=
  match a with
  | .next t => p t
  | .fault _ => false
  | .refused _ => false

/-- A pending slot's flags, its timer armed or not, started at `start`. -/
def pendingRegs (armed : Bool) (start : Time) : SlotRegs :=
  { used := true, pending := true, rcvd := false, tmrArmed := armed, tmrStart := start }

/-- Slot k just issued (V-RX): pending, the timer armed or not. -/
def pendingOn (k : SlotId) (armed : Bool) (start now : Time) (rx : List Byte) : State :=
  { (State.reset.setSlot k (pendingRegs armed start)) with current := some k, now := now, rx := rx }

/-- Slot k Complete and not released, its buffer holding the given bytes. -/
def completeOn (k : SlotId) (bytes : List Byte) : State :=
  (State.receiveFrom k 0 k.size { State.reset with rx := bytes }).setSlot k
    { used := true, pending := false, rcvd := true, tmrArmed := false, tmrStart := 0 } |>.setCurrent (some k)

theorem reset_free (k : SlotId) : State.reset.busy k = false := by
  unfold State.busy
  cases Config.arbPolicy <;> cases k <;> rfl

/-- While a slot is pending both policies are busy. -/
theorem pendingOn_busy (j k : SlotId) : (pendingOn j false 0 0 []).busy k = true :=
  busy_of_pending (j := j) k (by cases j <;> rfl) rfl

theorem rdLastErr_reset : exec .rdLastErr State.reset =
    .next (((State.reset.txWrite (encodeFrame Config.devAddr (Config.cmdId .readLastError) 0 0)).acquire .errorLog).reply
      .ok [SlotId.errorLog.byte]) := by
  simp only [exec, execRdLastErr, issue_free (reset_free .errorLog)]

theorem pendingOn_invariants : SlotInvariants (pendingOn .standard false 0 0 []) := by
  refine ⟨fun k => ?_, fun j k => ?_, fun k => ?_, fun k => ?_⟩
  · cases k <;> decide
  · cases j <;> cases k <;> decide
  · cases k <;> decide
  · cases k <;> decide

theorem completeOn_invariants : SlotInvariants (completeOn .confirmation [0x01]) := by
  refine ⟨fun k => ?_, fun j k => ?_, fun k => ?_, fun k => ?_⟩
  · cases k <;> decide
  · cases j <;> cases k <;> decide
  · cases k <;> decide
  · cases k <;> decide

/-! ### WellFormed refuses -/

theorem test_csum_256_bytes_ill_formed : ¬ (Instr.csum (List.replicate 256 0x00)).WellFormed := by
  show ¬ decide ((List.replicate 256 (0x00 : Byte)).length ≤ 255) = true
  rw [List.length_replicate]
  decide

theorem test_chkframe_256_bytes_ill_formed : ¬ (Instr.chkframe (List.replicate 256 0x00)).WellFormed := by
  show ¬ decide ((List.replicate 256 (0x00 : Byte)).length ≤ 255) = true
  rw [List.length_replicate]
  decide

/-! ### Every constructor's decoding, from the layouts of 30_encoding.md R60 and R63 -/

theorem test_decode_nop : decode [0x00] = .request .nop [] := by decide

theorem test_decode_csum : decode [0x01, 0x06, 0x00, 0x04, 0x09, 0x00, 0x00, 0x00] =
    .request (.csum [0x00, 0x04, 0x09, 0x00, 0x00, 0x00]) [] := by decide

theorem test_decode_chkframe : decode [0x02, 0x01, 0x42, 0x20] = .request (.chkframe [0x42]) [0x20] := by decide

theorem test_decode_encode : decode [0x03, 0x81, 0x02, 0x02, 0x09, 0x12, 0x34] =
    .request (.encode 0x81 0x02 0x0209 0x1234) [] := by decide

theorem test_decode_decode16 : decode [0x04, 0x00, 0x01, 0x70] = .request (.decode16 0x00 0x01 0x70) [] := by decide

theorem test_decode_rdReg : decode [0x10, 0x02, 0x02, 0x09] = .request (.rdReg 0x02 0x0209) [] := by decide

theorem test_decode_wrReg : decode [0x11, 0x03, 0x02, 0x09, 0x00, 0xF0] =
    .request (.wrReg 0x03 0x0209 0x00F0) [] := by decide

theorem test_decode_rdLastErr : decode [0x12] = .request .rdLastErr [] := by decide

theorem test_decode_rdPrevErr : decode [0x13] = .request .rdPrevErr [] := by decide

theorem test_decode_rdVersion : decode [0x14] = .request .rdVersion [] := by decide

theorem test_decode_rdDisplay : decode [0x15, 0xAB, 0xCD] = .request (.rdDisplay 0xABCD) [] := by decide

theorem test_decode_poll : decode [0x20] = .request .poll [] := by decide

theorem test_decode_release : decode [0x21, 0x07] = .request (.release 7) [] := by decide

theorem test_decode_isUsed : decode [0x30, 0x01] = .request (.isUsed 1) [] := by decide

theorem test_decode_isPending : decode [0x31, 0x02] = .request (.isPending 2) [] := by decide

theorem test_decode_isValid : decode [0x32, 0x04] = .request (.isValid 4) [] := by decide

theorem test_decode_getDevaddr : decode [0x33, 0x03] = .request (.getDevaddr 3) [] := by decide

theorem test_decode_readBuf : decode [0x34, 0x02, 0x29] = .request (.readBuf 2 41) [] := by decide

theorem test_decode_getValue : decode [0x40] = .request .getValue [] := by decide

theorem test_decode_getErrId : decode [0x41] = .request .getErrId [] := by decide

theorem test_decode_getErrLog : decode [0x42] = .request .getErrLog [] := by decide

theorem test_decode_getDisplay : decode [0x43] = .request .getDisplay [] := by decide

theorem test_decode_truncated : decode [0x11, 0x03, 0x02, 0x09, 0x00] = .incomplete := by decide

theorem test_decode_truncated_list : decode [0x01, 0x02, 0x42] = .incomplete := by decide

theorem test_decodeTableWord_with_operands : decodeTableWord 32 0x09020210 = some (.rdReg 0x02 0x0209) := by decide

theorem test_decodeTableWord_zero_operands : decodeTableWord 8 0x11 = some (.wrReg 0 0 0) := by decide

theorem test_decodeTableWord_illegal : decodeTableWord 8 0x05 = none := by decide

/-- The placed request is exactly one request: the step leaves the port as it was. -/
theorem test_withFetchWord_runs_it (s : State) : step (s.withFetchWord 8 0x34) = exec (.readBuf 0 0) s := rfl

/-! ### The vectors of 95_test_vectors.md -/

/-- V-CHK-1 -/
theorem test_chkframe_empty : lastOut (exec (.chkframe []) State.reset) = some [0x00, 0x00] := by decide

/-- V-CHK-6: byte 0 is outside the range. -/
theorem test_chkframe_ignores_byte_0 (a b : Byte) (rest : List Byte) :
    checksumMatches (a :: 0x00 :: rest) = checksumMatches (b :: 0x00 :: rest) := by
  simp [checksumMatches, slice]

/-- V-CS-1 -/
theorem test_csum_empty : lastOut (exec (.csum []) State.reset) = some [0x00, Config.checksum []] := rfl

/-- V-ENC-9 -/
theorem test_split_ABCD : split16 0xABCD = [0x02, 0x57, 0x4D] := by decide

/-- V-ENC-12, but for the checksum byte. -/
theorem test_encode_groups : (encodeFrame 0x81 0x02 0x0209 0x00F0).take 8 =
    [0x81, 0x02, 0x00, 0x04, 0x09, 0x00, 0x01, 0x70] := by decide

/-- V-DEC-2 -/
theorem test_decode16_232 : lastOut (exec (.decode16 0x00 0x01 0x68) State.reset) = some [0x00, 0x00, 0xE8] := by decide

/-- V-DEC-5: bits outside the fields are ignored. -/
theorem test_decode16_out_of_field : lastOut (exec (.decode16 0x04 0x80 0x80) State.reset) = some [0x00, 0x00, 0x00] := by
  decide

/-- V-ARB-1, the E1 frame. -/
theorem test_rdReg_sends_the_frame : ∃ t, exec (.rdReg (Config.cmdId .readSystemReg) 0x0209) State.reset = .next t ∧
    t.out = [[0x00, 0x00]] ∧ t.current = some .standard ∧ t.standard.pending = true ∧
    t.tx = [Config.devAddr, Config.cmdId .readSystemReg, 0x00, 0x04, 0x09, 0x00, 0x00, 0x00,
      Config.checksum [0x00, 0x04, 0x09, 0x00, 0x00, 0x00]] := by
  have h : isIdOf readRegisterIds (Config.cmdId .readSystemReg) = true := by simp [isIdOf, readRegisterIds]
  refine ⟨_, by simp only [exec, execRdReg, h, issue_free (reset_free .standard)]; rfl, ?_, ?_, ?_, ?_⟩ <;> rfl

/-- V-ARB-3 -/
theorem test_rdReg_write_id_illegal : exec (.rdReg (Config.cmdId .writeSystemReg) 0) State.reset =
    .next State.reset.replyIllegal := by
  have h : isIdOf readRegisterIds (Config.cmdId .writeSystemReg) = false := by
    simp only [isIdOf, readRegisterIds, List.any_cons, List.any_nil, Bool.or_false, Bool.or_eq_false_iff, beq_eq_false_iff_ne]
    refine ⟨?_, ?_, ?_, ?_⟩ <;> exact fun e => absurd (position_injective (Config.cmdBytes.injective e)) (by decide)
  simp only [exec, execRdReg, h]
  rfl

/-- Program P3 step 1. -/
theorem test_wrReg_sends_the_frame : ∃ t, exec (.wrReg (Config.cmdId .writeSystemReg) 0x0209 0x00F0) State.reset = .next t ∧
    t.out = [[0x00, 0x01]] ∧ t.tx = [Config.devAddr, Config.cmdId .writeSystemReg, 0x00, 0x04, 0x09, 0x00, 0x01, 0x70,
      Config.checksum [0x00, 0x04, 0x09, 0x00, 0x01, 0x70]] := by
  have h : isIdOf writeRegisterIds (Config.cmdId .writeSystemReg) = true := by simp [isIdOf, writeRegisterIds]
  refine ⟨_, by simp only [exec, execWrReg, h, issue_free (reset_free .confirmation)]; rfl, ?_, ?_⟩ <;> rfl

/-- 44_controller.md R125, worked example. -/
theorem test_rdLastErr_answers_slot_2 : lastOut (exec .rdLastErr State.reset) = some [0x00, 0x02] := by
  rw [rdLastErr_reset]
  rfl

/-- V-RX-1 -/
theorem test_poll_first_only_arms :
    after (exec .poll (pendingOn .confirmation false 0 7 [0x01])) (fun t =>
      t.confirmation.tmrArmed && t.confirmation.tmrStart == 7 && t.confirmation.pending && t.rx == [0x01]) = true := by
  decide

/-- V-RX-8: the clock has wrapped. -/
theorem test_poll_timeout_across_wrap :
    after (exec .poll (pendingOn .standard true 0xFFFFFF00 0x000074A0 [0x01])) (fun t =>
      !t.standard.pending && !t.standard.rcvd && t.standard.used && t.rx == []) = true := by
  decide

/-- V-ARB-7 -/
theorem test_release_pending_refused :
    lastOut (exec (.release 1) (pendingOn .confirmation false 0 0 [])) = some [0x02] := by decide

/-- V-ARB-8 -/
theorem test_release_unused_ok : lastOut (exec (.release 2) State.reset) = some [0x00] := by decide

/-- V-VAL-4 -/
theorem test_confirmation_complete_is_valid :
    lastOut (exec (.isValid 1) (completeOn .confirmation [0x99])) = some [0x00, 0x01] := by decide

/-- V-VAL-3: a timed-out Confirmation is not valid. -/
theorem test_confirmation_timed_out_is_not_valid :
    after (exec .poll (pendingOn .confirmation true 0 30000 [0x99])) (fun t =>
      lastOut (exec (.isValid 1) t) == some [0x00, 0x00]) = true := by decide

/-- V-ACC-10 -/
theorem test_getDevaddr : lastOut (exec (.getDevaddr 0) (completeOn .standard [0x7E, 0, 0, 0, 0])) = some [0x00, 0x7E] := by
  decide

/-- V-ARB-11 -/
theorem test_readBuf_outside : lastOut (exec (.readBuf 1 1) State.reset) = some [0xFF] := by decide

/-- V-ACC-3 -/
theorem test_getValue_masks : lastOut (exec .getValue (completeOn .standard [0x01, 0x83, 0xFF, 0xFF, 0])) =
    some [0x00, 0xFF, 0xFF] := by decide

/-- V-ACC-5 -/
theorem test_getErrId_masks :
    lastOut (exec .getErrId ((State.reset.memWrite .errorLog 1 0xF1).memWrite .errorLog 2 0x65)) = some [0x00, 0x15] := by
  decide

/-- Program P4 step 14: NUL is kept. -/
theorem test_getErrLog_keeps_nul :
    lastOut (exec .getErrLog ((((State.reset.memWrite .errorLog 3 0x03).memWrite .errorLog 4 0x02).memWrite .errorLog 7
      0x03).memWrite .errorLog 8 0x01)) = some ([0x00, 0x32, 0x00, 0x31] ++ List.replicate 12 0x00) := by decide

/-- Program P4 step 6: NUL is omitted. -/
theorem test_getDisplay_omits_nul :
    lastOut (exec .getDisplay ((((((State.reset.memWrite .display 1 0x04).memWrite .display 2 0x08).memWrite .display 3
      0x04).memWrite .display 4 0x09).memWrite .display 7 0x02).memWrite .display 8 0x01)) =
      some [0x00, 0x03, 0x48, 0x49, 0x21] := by decide

/-- 30_encoding.md R71: comment, number and list. -/
theorem test_assemble_list : assemble "CSUM [0x00, 4,9] ; payload".toList = some (.csum [0x00, 0x04, 0x09]) := by decide

/-- 30_encoding.md R72. -/
theorem test_assemble_release_alias : assemble "RELEASE_ERR".toList = some (.release 2) := by decide

/-- The names in the worked examples of 41_frame_codec.md R92 and 40_checksum.md R83, and one of R71. -/
theorem test_operand_names : operandValue "DEV_ADDR".toList = some Config.devAddr.toNat ∧
    operandValue "HOST_ADDR".toList = some Config.hostAddr.toNat ∧
    operandValue "CMD_READ_SYSTEM_REG".toList = some (Config.cmdId .readSystemReg).toNat := ⟨rfl, rfl, rfl⟩

/-! ### Witnesses: for each statement with hypotheses, a state and operands that meet them -/

theorem witness_SlotNumbersAndSizes : 4 ≤ (4 : Byte).toNat ∧ 4 ≤ (255 : Byte).toNat := by decide

theorem witness_CommandIdsDistinct : Config.cmdId .readDisplay = Config.cmdId .readDisplay := rfl

theorem witness_ResetInputRestoresBlock : (∃ t, t = (pendingOn .display true 3 9 [0x01]).land .assertReset) ∧
    41 < SlotId.display.size := ⟨⟨_, rfl⟩, by decide⟩

/-- A pending slot, a POLL on the port. -/
theorem witness_StepKeepsSlotInvariants : SlotInvariants ((pendingOn .standard false 0 0 []).withReq [0x20]) ∧
    ∃ t, step ((pendingOn .standard false 0 0 []).withReq [0x20]) = .next t :=
  ⟨⟨pendingOn_invariants.1, pendingOn_invariants.2, pendingOn_invariants.3, pendingOn_invariants.4⟩, _, rfl⟩

/-- One listed byte, the last of the space, a POLL on the port. -/
theorem witness_StepKeepsBufferSpace : BufferSpace ((State.reset.memWrite .display 41 0x7F).withReq [0x20]) ∧
    ∃ t, step ((State.reset.memWrite .display 41 0x7F).withReq [0x20]) = .next t := by
  have listed : ∀ c ∈ ((State.reset.memWrite .display 41 0x7F).withReq [0x20]).mem, c.1 = slotAddr .display 41 := by
    decide
  exact ⟨⟨by decide, fun c hc => ⟨.display, 41, by decide, listed c hc⟩⟩, _, rfl⟩

theorem witness_StepKeepsHeldUntilRelease : PolicyInvariant ((pendingOn .standard false 0 0 []).withReq [0x20]) ∧
    ∃ t, step ((pendingOn .standard false 0 0 []).withReq [0x20]) = .next t := by
  refine ⟨?_, _, rfl⟩
  unfold PolicyInvariant
  cases Config.arbPolicy with
  | untilRelease => intro k; cases k <;> decide
  | pendingOnly => trivial

theorem witness_DecodeOfEncode : (Instr.csum (List.replicate 255 0xFF)).WellFormed := by
  show decide ((List.replicate 255 (0xFF : Byte)).length ≤ 255) = true
  rw [List.length_replicate]
  decide

theorem witness_EncodeOfDecode : decode [0x21, 0x00, 0x20] = .request (.release 0) [0x20] := by decide

theorem witness_StepRunsDecodedRequest :
    decode (State.reset.withReq [0x21, 0x00, 0x20]).req = .request (.release 0) [0x20] := by decide

/-- Both ends of every unassigned range. -/
theorem witness_UnassignedOpcodeAnswered : ∀ op ∈ ([0x05, 0x0F, 0x16, 0x1F, 0x22, 0x2F, 0x35, 0x3F, 0x44, 0xFF] : List Byte),
    (State.reset.withReq [op]).req = op :: [] ∧
    (0x05 ≤ op.toNat ∧ op.toNat ≤ 0x0F ∨ 0x16 ≤ op.toNat ∧ op.toNat ≤ 0x1F ∨ 0x22 ≤ op.toNat ∧ op.toNat ≤ 0x2F ∨
      0x35 ≤ op.toNat ∧ op.toNat ≤ 0x3F ∨ 0x44 ≤ op.toNat) := by decide

/-- One byte short, and exactly long enough. -/
theorem witness_TruncatedRequestHasNoStep :
    ((State.reset.withReq [0x10, 0x00, 0x02]).inputs = [] ∧
      ∀ n, requestLength (State.reset.withReq [0x10, 0x00, 0x02]).req = some n → 3 < n) ∧
    ((State.reset.withInputs [.clockAdvance 5]).inputs = .clockAdvance 5 :: [] ∧
      requestLength (State.reset.withInputs [.clockAdvance 5]).req = none) ∧
    (requestLength (State.reset.withReq [0x20]).req = some 1 ∧ ∃ t, step (State.reset.withReq [0x20]) = .next t) := by
  refine ⟨⟨rfl, fun n hn => ?_⟩, ⟨rfl, rfl⟩, rfl, _, rfl⟩
  have h4 : requestLength (State.reset.withReq [0x10, 0x00, 0x02]).req = some 4 := by decide
  have : some 4 = some n := h4.symm.trans hn
  simp at this
  omega

theorem witness_EnvironmentEventLands : ∀ e ∈ [Input.requestBytes [0x20], .deviceBytes [0x01], .clockAdvance 5, .assertReset],
    decode (State.reset.withInputs [e]).req = .incomplete ∧ (State.reset.withInputs [e]).inputs = e :: [] := by decide

theorem witness_UsedFlagRule :
    (∃ t, exec .rdLastErr State.reset = .next t ∧ (State.reset.slot .errorLog).used = false ∧
      (t.slot .errorLog).used = true) ∧
    (∃ t, exec (.release 1) (completeOn .confirmation [0x01]) = .next t ∧
      ((completeOn .confirmation [0x01]).slot .confirmation).used = true ∧ (t.slot .confirmation).used = false) :=
  ⟨⟨_, rdLastErr_reset, rfl, rfl⟩, ⟨_, rfl, by decide, by decide⟩⟩

/-- An issue; a POLL that completes; an issue to a slot whose last reply was received. -/
theorem witness_PendingAndReceivedRule :
    (∃ t, exec .rdLastErr State.reset = .next t ∧ (State.reset.slot .errorLog).pending = false ∧
      (t.slot .errorLog).pending = true) ∧
    (∃ t, exec .poll (pendingOn .confirmation true 0 1 [0x01]) = .next t ∧
      ((pendingOn .confirmation true 0 1 [0x01]).slot .confirmation).pending = true ∧
      (t.slot .confirmation).pending = false ∧
      ((pendingOn .confirmation true 0 1 [0x01]).slot .confirmation).rcvd = false ∧
      (t.slot .confirmation).rcvd = true) ∧
    (∃ t, exec .rdLastErr (State.reset.setSlot .errorLog { SlotRegs.reset with rcvd := true }) = .next t ∧
      ((State.reset.setSlot .errorLog { SlotRegs.reset with rcvd := true }).slot .errorLog).rcvd = true ∧
      (t.slot .errorLog).rcvd = false) := by
  have free : (State.reset.setSlot .errorLog { SlotRegs.reset with rcvd := true }).busy .errorLog = false := by
    unfold State.busy
    cases Config.arbPolicy <;> rfl
  refine ⟨⟨_, rdLastErr_reset, rfl, rfl⟩, ⟨_, rfl, by decide, by decide, by decide, by decide⟩,
    ⟨_, by simp only [exec, execRdLastErr, issue_free free]; rfl, rfl, rfl⟩⟩

theorem witness_CurrentReferenceRule :
    (∃ t, exec .rdLastErr State.reset = .next t ∧ t.current ≠ State.reset.current) ∧
    (∃ t, exec (.release 1) (completeOn .confirmation [0x01]) = .next t ∧
      t.current ≠ (completeOn .confirmation [0x01]).current) :=
  ⟨⟨_, rdLastErr_reset, by simp [State.reply, State.reset]⟩, ⟨_, rfl, by decide⟩⟩

theorem witness_TimerStartRule : ∃ t, exec .poll (pendingOn .confirmation false 0 7 []) = .next t ∧
    ((pendingOn .confirmation false 0 7 []).slot .confirmation).tmrArmed = false ∧
    (t.slot .confirmation).tmrArmed = true ∧
    (t.slot .confirmation).tmrStart ≠ ((pendingOn .confirmation false 0 7 []).slot .confirmation).tmrStart :=
  ⟨_, rfl, by decide, by decide, by decide⟩

theorem witness_BufferWritersRule : ∃ t, exec .poll (pendingOn .confirmation true 0 1 [0x55]) = .next t ∧
    t.mem.read 256 ≠ (pendingOn .confirmation true 0 1 [0x55]).mem.read 256 := ⟨_, rfl, by decide⟩

theorem witness_TransportUsersRule :
    (∃ t, exec .poll (pendingOn .confirmation true 0 1 [0x55]) = .next t ∧
      t.rx ≠ (pendingOn .confirmation true 0 1 [0x55]).rx) ∧
    (∃ t, exec .rdLastErr State.reset = .next t ∧ t.tx ≠ State.reset.tx) :=
  ⟨⟨_, rfl, by decide⟩, ⟨_, rdLastErr_reset, by simp [State.reply, State.reset, encodeFrame]⟩⟩

theorem witness_ChkframeResult : ([] : List Byte).length < 2 ∧ ([0x42] : List Byte).length < 2 := by decide

/-- A legal id, a foreign one, a busy and a free arbiter. -/
theorem witness_RdRegRule :
    (∀ c ∈ [CmdId.readFrontPanel, .readSystemReg, .readTimerReg, .readRegExtra],
      Config.cmdId .writeRegExtra ≠ Config.cmdId c) ∧
    (∃ c ∈ [CmdId.readFrontPanel, .readSystemReg, .readTimerReg, .readRegExtra],
      Config.cmdId .readRegExtra = Config.cmdId c) ∧
    (pendingOn .errorLog false 0 0 []).busy .standard = true ∧ State.reset.busy .standard = false := by
  refine ⟨fun c hc e => ?_, ⟨.readRegExtra, by decide, rfl⟩, pendingOn_busy _ _, reset_free _⟩
  cases position_injective (Config.cmdBytes.injective e)
  exact absurd hc (by decide)

theorem witness_WrRegRule :
    (∀ c ∈ [CmdId.writeFrontPanel, .writeSystemReg, .writeTimerReg, .writeRegExtra],
      Config.cmdId .readFrontPanel ≠ Config.cmdId c) ∧
    (∃ c ∈ [CmdId.writeFrontPanel, .writeSystemReg, .writeTimerReg, .writeRegExtra],
      Config.cmdId .writeFrontPanel = Config.cmdId c) ∧
    (pendingOn .standard false 0 0 []).busy .confirmation = true ∧ State.reset.busy .confirmation = false := by
  refine ⟨fun c hc e => ?_, ⟨.writeFrontPanel, by decide, rfl⟩, pendingOn_busy _ _, reset_free _⟩
  cases position_injective (Config.cmdBytes.injective e)
  exact absurd hc (by decide)

theorem witness_FixedCommandRules : ∀ k : SlotId,
    (pendingOn .confirmation false 0 0 []).busy k = true ∧ State.reset.busy k = false :=
  fun k => ⟨pendingOn_busy _ k, reset_free k⟩

theorem witness_WrongClassIdIsIllegal : CmdId.writeSystemReg ∈ writeRegisterIds ∧ CmdId.readSystemReg ∈ readRegisterIds := by
  decide

theorem witness_SecondCommandRefused : SlotInvariants (pendingOn .standard false 0 0 []) ∧
    ((pendingOn .standard false 0 0 []).slot .standard).pending = true ∧ issueSlot .rdLastErr = some .errorLog :=
  ⟨pendingOn_invariants, rfl, rfl⟩

theorem witness_NoStaleContentAfterIssue : issueSlot .rdLastErr = some .errorLog ∧
    ∃ t, exec .rdLastErr State.reset = .next t ∧ t.out = State.reset.out ++ [[0x00, SlotId.errorLog.byte]] :=
  ⟨rfl, _, rdLastErr_reset, rfl⟩

theorem witness_PollWithNothingPending : State.reset.current = none ∧
    ((completeOn .confirmation [0x01]).current = some .confirmation ∧
      ((completeOn .confirmation [0x01]).slot .confirmation).pending = false) := by decide

theorem witness_PollArmsTimer : (pendingOn .display false 0 5 []).current = some .display ∧
    ((pendingOn .display false 0 5 []).slot .display).pending = true ∧
    ((pendingOn .display false 0 5 []).slot .display).tmrArmed = false := by decide

/-- At exactly the deadline. -/
theorem witness_PollTimesOut : (pendingOn .errorLog true 5 30005 [0x01]).current = some .errorLog ∧
    ((pendingOn .errorLog true 5 30005 [0x01]).slot .errorLog).pending = true ∧
    ((pendingOn .errorLog true 5 30005 [0x01]).slot .errorLog).tmrArmed = true ∧
    30000 ≤ ((pendingOn .errorLog true 5 30005 [0x01]).now -
      ((pendingOn .errorLog true 5 30005 [0x01]).slot .errorLog).tmrStart).toNat := by decide

/-- One millisecond before the deadline, exactly a whole frame. -/
theorem witness_PollCompletes : (pendingOn .standard true 5 30004 [1, 2, 3, 4, 5]).current = some .standard ∧
    ((pendingOn .standard true 5 30004 [1, 2, 3, 4, 5]).slot .standard).pending = true ∧
    ((pendingOn .standard true 5 30004 [1, 2, 3, 4, 5]).slot .standard).tmrArmed = true ∧
    ((pendingOn .standard true 5 30004 [1, 2, 3, 4, 5]).now -
      ((pendingOn .standard true 5 30004 [1, 2, 3, 4, 5]).slot .standard).tmrStart).toNat < 30000 ∧
    SlotId.standard.size ≤ (pendingOn .standard true 5 30004 [1, 2, 3, 4, 5]).rx.length := by decide

/-- One millisecond before the deadline, one byte short. -/
theorem witness_PollKeepsWaiting : (pendingOn .standard true 5 30004 [1, 2, 3, 4]).current = some .standard ∧
    ((pendingOn .standard true 5 30004 [1, 2, 3, 4]).slot .standard).pending = true ∧
    ((pendingOn .standard true 5 30004 [1, 2, 3, 4]).slot .standard).tmrArmed = true ∧
    ((pendingOn .standard true 5 30004 [1, 2, 3, 4]).now -
      ((pendingOn .standard true 5 30004 [1, 2, 3, 4]).slot .standard).tmrStart).toNat < 30000 ∧
    (pendingOn .standard true 5 30004 [1, 2, 3, 4]).rx.length < SlotId.standard.size := by decide

theorem witness_TimedOutPollsChangeNothing : (pendingOn .errorLog true 5 30005 [0x01]).current = some .errorLog ∧
    ((pendingOn .errorLog true 5 30005 [0x01]).slot .errorLog).pending = true ∧
    ((pendingOn .errorLog true 5 30005 [0x01]).slot .errorLog).tmrArmed = true ∧
    30000 ≤ ((pendingOn .errorLog true 5 30005 [0x01]).now -
      ((pendingOn .errorLog true 5 30005 [0x01]).slot .errorLog).tmrStart).toNat ∧
    ∃ t, exec .poll (pendingOn .errorLog true 5 30005 [0x01]) = .next t :=
  ⟨by decide, by decide, by decide, by decide, _, rfl⟩

theorem witness_ReplyReadAtSecondPoll : (pendingOn .confirmation false 0 5 [0x01]).current = some .confirmation ∧
    ((pendingOn .confirmation false 0 5 [0x01]).slot .confirmation).pending = true ∧
    ((pendingOn .confirmation false 0 5 [0x01]).slot .confirmation).tmrArmed = false ∧
    SlotId.confirmation.size ≤ (pendingOn .confirmation false 0 5 [0x01]).rx.length ∧ 29999 < 30000 := by decide

theorem witness_DeadlineEndsTheWait : (pendingOn .confirmation false 0 5 []).current = some .confirmation ∧
    ((pendingOn .confirmation false 0 5 []).slot .confirmation).pending = true ∧
    ((pendingOn .confirmation false 0 5 []).slot .confirmation).tmrArmed = false ∧
    30000 ≤ 30000 ∧ 4294967295 < 2 ^ 32 := by decide

theorem witness_ReceiveStateTable : SlotInvariants (pendingOn .standard false 0 0 []) := pendingOn_invariants

theorem witness_ReleaseRule : 4 ≤ (4 : Byte).toNat ∧ SlotId.ofByte 3 = some .display ∧
    ((pendingOn .display false 0 0 []).slot .display).pending = true ∧ (State.reset.slot .display).pending = false := by
  decide

theorem witness_ReleaseThenReissue : SlotInvariants (completeOn .confirmation [0x01]) ∧
    (completeOn .confirmation [0x01]).current = some .confirmation ∧
    ((completeOn .confirmation [0x01]).slot .confirmation).pending = false ∧
    ∃ t, exec (.release SlotId.confirmation.byte) (completeOn .confirmation [0x01]) = .next t :=
  ⟨completeOn_invariants, by decide, by decide, _, rfl⟩

/-- Slot operands of IS_USED, IS_PENDING, IS_VALID and GET_DEVADDR at the edges of both clauses. -/
theorem witness_slot_operands : (4 ≤ (4 : Byte).toNat ∧ 4 ≤ (255 : Byte).toNat) ∧
    SlotId.ofByte 0 = some .standard ∧ SlotId.ofByte 3 = some .display := by decide

theorem witness_IsUsedResult : 4 ≤ (4 : Byte).toNat ∧ SlotId.ofByte 0 = some .standard := by decide

theorem witness_IsPendingResult : 4 ≤ (4 : Byte).toNat ∧ SlotId.ofByte 1 = some .confirmation := by decide

theorem witness_IsValidResult : 4 ≤ (4 : Byte).toNat ∧ SlotId.ofByte 2 = some .errorLog := by decide

theorem witness_GetDevaddrResult : 4 ≤ (4 : Byte).toNat ∧ SlotId.ofByte 3 = some .display := by decide

/-- The last byte of a buffer, and the first index after it. -/
theorem witness_ReadBufResult : 4 ≤ (4 : Byte).toNat ∧ SlotId.ofByte 2 = some .errorLog ∧
    SlotId.errorLog.size ≤ (42 : Byte).toNat ∧ (41 : Byte).toNat < SlotId.errorLog.size := by decide

theorem witness_BufferReadAfterWrite : 4 < SlotId.standard.size ∧ 0 < SlotId.confirmation.size ∧
    (SlotId.standard, 4) ≠ (SlotId.confirmation, 0) := by decide

theorem witness_TransportPrimitives : ({ State.reset with rx := [0x01, 0x02] } : State).rx = 0x01 :: [0x02] := rfl

end Sys2Proof.Tests
end

/-! The family of 00_scope.md: the command ids (R4), and the environment events that land between operations (R14). -/

namespace Sys2Proof.Machine

open Sys2Proof

/-- R4: the id's value tells the command, since the unknown permutation keeps the twelve positions apart. -/
theorem cmdId_injective : Function.Injective Config.cmdId :=
  fun _ _ sameByte => position_injective (Config.cmdBytes.injective sameByte)

/-- Settles O2, from the injectivity of the command ids' values. -/
theorem commandIdsDistinct : Obligations.CommandIdsDistinct := fun _ _ sameByte => cmdId_injective sameByte

/-- With no whole request on the port, the first listed event lands and leaves the list. -/
theorem step_of_incomplete {s : State} {e : Input} {later : List Input} (hd : decode s.req = .incomplete)
    (he : s.inputs = e :: later) : step s = .next ((s.withInputs later).land e) := by
  simp only [step, hd, he]

/-! What each event does to the state (log entry 1; 20_memory.md R46; 10_state.md R31, R33). -/

theorem land_requestBytes (s : State) (bytes : List Byte) :
    s.land (.requestBytes bytes) = { s with req := s.req ++ bytes } := rfl

theorem land_deviceBytes (s : State) (bytes : List Byte) :
    s.land (.deviceBytes bytes) = { s with rx := s.rx ++ bytes } := rfl

theorem land_clockAdvance (s : State) (ms : Nat) :
    s.land (.clockAdvance ms) = { s with now := s.now + BitVec.ofNat 32 ms } := rfl

/-- Reset keeps the transport and the clock (R33), and the request port, the answers and the schedule (log entry 7). -/
theorem land_assertReset (s : State) : s.land .assertReset = { State.reset with
    rx := s.rx, tx := s.tx, now := s.now, req := s.req, out := s.out, inputs := s.inputs } := rfl

/-- Settles O14, one event at a time: the step lands the event, and the event's own equation gives the next state. -/
theorem environmentEventLands : Obligations.EnvironmentEventLands := by
  intro s later hd
  refine ⟨fun bytes he => ?requestBytes, fun bytes he => ?deviceBytes, fun ms he => ?clockAdvance,
    fun he => ?assertReset⟩
  case requestBytes => rw [step_of_incomplete hd he, land_requestBytes]; rfl
  case deviceBytes => rw [step_of_incomplete hd he, land_deviceBytes]; rfl
  case clockAdvance => rw [step_of_incomplete hd he, land_clockAdvance]; rfl
  case assertReset => rw [step_of_incomplete hd he, land_assertReset]; rfl

end Sys2Proof.Machine

/-! The family of 10_state.md: slot numbers (R21), the reset input (R33, R34), who may change which part of the block's
state (R22 to R27), and the slot invariants (R28). -/

namespace Sys2Proof.Machine

open Sys2Proof

/-! ### A result changes nothing of the block -/

@[simp] theorem slot_reply (s : State) (status : Status) (values : List Byte) (k : SlotId) :
    (s.reply status values).slot k = s.slot k := by
  rw [reply_eq, slot_answer]

@[simp] theorem current_reply (s : State) (status : Status) (values : List Byte) :
    (s.reply status values).current = s.current := rfl

@[simp] theorem mem_reply (s : State) (status : Status) (values : List Byte) :
    (s.reply status values).mem = s.mem := rfl

@[simp] theorem memRead_reply (s : State) (status : Status) (values : List Byte) (k : SlotId) (n : Nat) :
    (s.reply status values).memRead k n = s.memRead k n := rfl

/-- `exec_cases` read from the answered state: it is a reply given after one of the four effects. -/
theorem effect_of_exec {i : Instr} {s t : State} (h : exec i s = .next t) :
    ∃ u status values, t = u.reply status values ∧ ExecEffect i s u status values := by
  obtain ⟨u, status, values, he, effect⟩ := exec_cases i s
  exact ⟨u, status, values, Host.Outcome.next.inj (h.symm.trans he), effect⟩

/-! ### Updates of one slot alone -/

/-- An address that changes under an update of slot k alone is a byte of its buffer. -/
theorem OnlySlot.addr_of_changed {s t : State} {k : SlotId} (only : OnlySlot s t k) {a : Nat}
    (changed : t.mem.read a ≠ s.mem.read a) : ∃ n, n < k.size ∧ a = slotAddr k n := by
  by_contra elsewhere
  exact changed (only.otherBytes a fun n hn ha => elsewhere ⟨n, hn, ha⟩)

theorem acquire_onlySlot (s : State) (k : SlotId) : OnlySlot s (s.acquire k) k := by
  obtain ⟨-, outside, -⟩ := mem_acquire s k
  exact ⟨fun _ hj => by simp [hj], outside⟩

theorem memRead_acquire (s : State) {k : SlotId} {n : Nat} (hn : n < k.size) : (s.acquire k).memRead k n = 0 :=
  (mem_acquire s k).1 n hn

theorem timerStart_onlySlot (s : State) (k : SlotId) : OnlySlot s (s.timerStart k) k :=
  ⟨fun _ hj => by simp [hj], fun _ _ => by rw [mem_timerStart]⟩

theorem timeout_onlySlot (s : State) (k : SlotId) : OnlySlot s (s.timeout k) k :=
  ⟨fun _ hj => by simp [hj], fun a outside => by
    rw [mem_timeout, zeroBuffer_outside _ k a outside, mem_rxFlush]⟩

theorem complete_onlySlot {s : State} {k : SlotId} (enough : k.size ≤ s.rx.length) :
    OnlySlot s (s.complete k) k := by
  obtain ⟨slots, -, outside, -⟩ := complete_spec s k enough
  exact ⟨fun j hj => by simp [slots j, hj], outside⟩

/-! ### One evaluation of the receive machine -/

@[simp] theorem current_pollSlot (s : State) (k : SlotId) : (s.pollSlot k).current = s.current := by
  rcases pollSlot_cases s k with
    ⟨-, h⟩ | ⟨-, -, h⟩ | ⟨-, -, -, h⟩ | ⟨-, -, -, enough, h⟩ | ⟨-, -, -, -, h⟩ <;> rw [h]
  case inr.inl => exact current_timerStart s k
  case inr.inr.inl => exact current_timeout s k
  case inr.inr.inr.inl =>
    obtain ⟨-, -, -, -, -, -, hcurrent, -⟩ := complete_spec s k enough
    exact hcurrent

/-- POLL changes nothing of another slot than the one it drives. -/
theorem pollSlot_onlySlot (s : State) (k : SlotId) : OnlySlot s (s.pollSlot k) k := by
  have unchanged : OnlySlot s s k := ⟨fun _ _ => rfl, fun _ _ => rfl⟩
  rcases pollSlot_cases s k with
    ⟨-, h⟩ | ⟨-, -, h⟩ | ⟨-, -, -, h⟩ | ⟨-, -, -, enough, h⟩ | ⟨-, -, -, -, h⟩ <;> rw [h]
  case inl => exact unchanged
  case inr.inl => exact timerStart_onlySlot s k
  case inr.inr.inl => exact timeout_onlySlot s k
  case inr.inr.inr.inl => exact complete_onlySlot enough
  case inr.inr.inr.inr => exact unchanged

@[simp] theorem current_pollCurrent (s : State) : s.pollCurrent.current = s.current := by
  rcases pollCurrent_cases s with ⟨-, h⟩ | ⟨k, -, h⟩ <;> rw [h]
  case inr => exact current_pollSlot s k

/-! ### Everything an operation can do to one slot -/

/-- What instruction i, run in s, can make of slot k: its flags and timer are r afterwards, and c is then the current
reference. R23 to R26 say who may change which flag; each of their claims is read off these five ways. -/
inductive SlotChange (i : Instr) (s : State) (k : SlotId) (r : SlotRegs) (c : Option SlotId) : Prop
  /-- The slot is not touched. -/
  | kept (slot : r = s.slot k)
  /-- The first POLL of a pending period starts the timer (42_receive_fsm.md R103 step 3). -/
  | armed (isPoll : i = .poll) (isCurrent : s.current = some k) (pending : (s.slot k).pending = true)
      (stopped : (s.slot k).tmrArmed = false)
      (slot : r = { s.slot k with tmrArmed := true, tmrStart := s.now })
  /-- A POLL ends the pending period, by a timeout or by a frame (42_receive_fsm.md R104, R105). -/
  | settled (received : Bool) (isPoll : i = .poll) (isCurrent : s.current = some k)
      (pending : (s.slot k).pending = true) (running : (s.slot k).tmrArmed = true)
      (slot : r = { s.slot k with pending := false, rcvd := received, tmrArmed := false })
  /-- An accepted issue acquires the slot (44_controller.md R121). -/
  | taken (isIssue : issueSlot i = some k) (nowCurrent : c = some k)
      (slot : r = { s.slot k with used := true, pending := true, rcvd := false, tmrArmed := false })
  /-- RELEASE gives the settled slot back (44_controller.md R129). -/
  | released (isRelease : i = .release k.byte) (notPending : (s.slot k).pending = false)
      (slot : r = { s.slot k with used := false })

theorem pollSlot_slotChange {s : State} {k : SlotId} (isCurrent : s.current = some k) :
    SlotChange .poll s k ((s.pollSlot k).slot k) s.current := by
  rcases pollSlot_cases s k with
    ⟨-, h⟩ | ⟨pending, stopped, h⟩ | ⟨pending, running, -, h⟩ | ⟨pending, running, -, enough, h⟩ | ⟨-, -, -, -, h⟩ <;>
    rw [h]
  case inl => exact .kept rfl
  case inr.inl => exact .armed rfl isCurrent pending stopped (by simp)
  case inr.inr.inl => exact .settled false rfl isCurrent pending running (by simp)
  case inr.inr.inr.inl =>
    exact .settled true rfl isCurrent pending running (by simp [(complete_spec s k enough).1])
  case inr.inr.inr.inr => exact .kept rfl

theorem pollCurrent_slotChange (s : State) (k : SlotId) :
    SlotChange .poll s k (s.pollCurrent.slot k) s.current := by
  rcases pollCurrent_cases s with ⟨-, h⟩ | ⟨j, isCurrent, h⟩ <;> rw [h]
  case inl => exact .kept rfl
  case inr =>
    by_cases hk : k = j
    · subst hk
      exact pollSlot_slotChange isCurrent
    · exact .kept ((pollSlot_onlySlot s j).otherSlots k hk)

/-- Every operation changes every slot in one of the five ways. -/
theorem exec_slotChange {i : Instr} {s t : State} (h : exec i s = .next t) (k : SlotId) :
    SlotChange i s k (t.slot k) t.current := by
  obtain ⟨u, status, values, rfl, effect⟩ := effect_of_exec h
  rw [slot_reply, current_reply]
  cases effect with
  | same => exact .kept rfl
  | poll isPoll =>
    subst isPoll
    rw [current_pollCurrent]
    exact pollCurrent_slotChange s k
  | issued j cmd reg data isIssue free =>
    by_cases hk : k = j
    · subst hk
      exact .taken isIssue (by simp) (by simp)
    · exact .kept (by simp [hk])
  | released j isRelease settled =>
    by_cases hk : k = j
    · subst hk
      exact .released isRelease settled (by simp)
    · exact .kept (by simp [hk])

/-! ### The slot invariants -/

/-- R28 slot by slot. That at most one slot is pending needs no clause: two pending slots are both the current one. -/
theorem slotInvariants_iff {s : State} : SlotInvariants s ↔ ∀ k,
    ((s.slot k).pending = true → (s.slot k).used = true ∧ s.current = some k) ∧
    ((s.slot k).tmrArmed = true → (s.slot k).pending = true) := by
  constructor
  · intro inv k
    exact ⟨fun hp => ⟨inv.pendingUsed k hp, inv.pendingCurrent k hp⟩, inv.armedPending k⟩
  · intro each
    refine ⟨fun k hp => ((each k).1 hp).1, fun j k hj hk => ?_, fun k hp => ((each k).1 hp).2, fun k => (each k).2⟩
    exact Option.some.inj (((each j).1 hj).2.symm.trans ((each k).1 hk).2)

/-- R28 speaks of the slots and the current reference only. -/
theorem SlotInvariants.congr {s t : State} (inv : SlotInvariants s) (slots : ∀ k, t.slot k = s.slot k)
    (hcurrent : t.current = s.current) : SlotInvariants t := by
  rw [slotInvariants_iff] at inv ⊢
  intro k
  rw [slots k, hcurrent]
  exact inv k

/-- While a slot is pending no operation moves the current reference away from it: an issue is turned away with BUSY,
and RELEASE of the slot is refused. -/
theorem current_of_pending {i : Instr} {s t : State} {k : SlotId} (inv : SlotInvariants s) (h : exec i s = .next t)
    (pending : (s.slot k).pending = true) : t.current = some k := by
  have isCurrent : s.current = some k := inv.pendingCurrent k pending
  obtain ⟨u, status, values, rfl, effect⟩ := effect_of_exec h
  rw [current_reply]
  cases effect with
  | same => exact isCurrent
  | poll => rw [current_pollCurrent, isCurrent]
  | issued j _ _ _ _ free =>
    have busy : s.busy j = true := busy_of_pending j pending isCurrent
    simp [busy] at free
  | released j _ settled =>
    have hkj : k ≠ j := by
      rintro rfl
      simp [pending] at settled
    simp [isCurrent, hkj]

/-- Every operation keeps R28. -/
theorem exec_keeps_slotInvariants {i : Instr} {s t : State} (inv : SlotInvariants s) (h : exec i s = .next t) :
    SlotInvariants t := by
  rw [slotInvariants_iff]
  intro k
  obtain ⟨ofPending, ofArmed⟩ := slotInvariants_iff.mp inv k
  cases exec_slotChange h k with
  | kept slot =>
    rw [slot]
    exact ⟨fun hp => ⟨(ofPending hp).1, current_of_pending inv h hp⟩, ofArmed⟩
  | armed _ _ pending _ slot => simp [slot, pending, (ofPending pending).1, current_of_pending inv h pending]
  | settled _ _ _ _ _ slot => simp [slot]
  | taken _ nowCurrent slot => simp [slot, nowCurrent]
  | released _ notPending slot =>
    have stopped : (s.slot k).tmrArmed = false := by simpa [notPending] using ofArmed
    simp [slot, notPending, stopped]

/-! ### The reset input -/

@[simp] theorem slot_assertReset (s : State) (k : SlotId) : s.assertReset.slot k = SlotRegs.reset := by cases k <;> rfl

@[simp] theorem memRead_assertReset (s : State) (k : SlotId) (n : Nat) : s.assertReset.memRead k n = 0 := rfl

theorem slotInvariants_assertReset (s : State) : SlotInvariants s.assertReset := by
  rw [slotInvariants_iff]
  simp [SlotRegs.reset]

/-- Every environment event keeps R28: only reset touches the block at all. -/
theorem land_keeps_slotInvariants {s : State} (inv : SlotInvariants s) (e : Input) : SlotInvariants (s.land e) := by
  cases e with
  | requestBytes => exact inv.congr (fun k => by cases k <;> rfl) rfl
  | deviceBytes => exact inv.congr (fun k => by cases k <;> rfl) rfl
  | clockAdvance => exact inv.congr (fun k => by cases k <;> rfl) rfl
  | assertReset => exact slotInvariants_assertReset s

/-! ### The statements -/

/-- Settles O5: an operation keeps R28 by the five ways it can change a slot, an event because only reset touches the
block. -/
theorem stepKeepsSlotInvariants : Obligations.StepKeepsSlotInvariants := by
  intro s t inv h
  rcases step_cases h with ⟨i, later, -, he⟩ | ⟨op, later, -, rfl⟩ | ⟨-, e, later, -, rfl⟩
  case inl => exact exec_keeps_slotInvariants (inv.congr (slot_withReq s later) (current_withReq s later)) he
  case inr.inl => exact inv.congr (fun k => by simp [replyIllegal_eq]) (by simp [replyIllegal_eq])
  case inr.inr => exact land_keeps_slotInvariants (inv.congr (slot_withInputs s later) (current_withInputs s later)) e

/-- Settles O17: of the five changes only `taken` sets `used` and only `released` clears it. -/
theorem usedFlagRule : Obligations.UsedFlagRule := by
  intro i s t k h
  cases exec_slotChange h k with
  | kept slot => simp +contextual [slot]
  | armed _ _ _ _ slot => simp +contextual [slot]
  | settled _ _ _ _ _ slot => simp +contextual [slot]
  | taken isIssue nowCurrent slot => exact ⟨fun _ _ => ⟨isIssue, nowCurrent⟩, by simp [slot]⟩
  | released isRelease _ slot => exact ⟨by simp [slot], fun _ _ => isRelease⟩

/-- Settles O18: of the five changes only `taken` sets `pending`, only `settled` clears it or sets `rcvd`, and these two
alone can clear `rcvd`. -/
theorem pendingAndReceivedRule : Obligations.PendingAndReceivedRule := by
  intro i s t k h
  cases exec_slotChange h k with
  | kept slot => simp +contextual [slot]
  | armed _ _ _ _ slot => simp +contextual [slot]
  | settled _ isPoll isCurrent pending _ slot =>
    exact ⟨by simp [slot], fun _ _ => ⟨isPoll, isCurrent⟩, fun _ _ => ⟨isPoll, isCurrent, pending⟩,
      fun _ _ => .inl isPoll⟩
  | taken isIssue _ slot =>
    exact ⟨fun _ _ => isIssue, by simp [slot], by simp [slot], fun _ _ => .inr isIssue⟩
  | released _ _ slot => simp +contextual [slot]

/-- Settles O19, by the effects of an operation: only an accepted issue and RELEASE of the current slot move the
reference. -/
theorem currentReferenceRule : Obligations.CurrentReferenceRule := by
  intro i s t h changed
  obtain ⟨u, status, values, rfl, effect⟩ := effect_of_exec h
  rw [current_reply] at changed ⊢
  cases effect with
  | same => exact absurd rfl changed
  | poll => exact absurd (current_pollCurrent s) changed
  | issued k _ _ _ isIssue _ => exact .inl ⟨k, isIssue, current_acquire _ k⟩
  | released k isRelease _ =>
    have wasCurrent : s.current = some k := by
      by_contra other
      simp [other] at changed
    exact .inr ⟨k, isRelease, wasCurrent, by simp [wasCurrent]⟩

/-- Settles O21, by the effects of an operation: POLL and Acquire change no byte outside their slot's buffer, and
Acquire leaves that buffer zero; the other effects leave the memory as it is. -/
theorem bufferWritersRule : Obligations.BufferWritersRule := by
  intro i s t a h changed
  obtain ⟨u, status, values, rfl, effect⟩ := effect_of_exec h
  simp only [mem_reply, memRead_reply] at changed ⊢
  cases effect with
  | same => exact absurd rfl changed
  | poll isPoll =>
    rcases pollCurrent_cases s with ⟨-, idle⟩ | ⟨k, isCurrent, driven⟩
    · exact absurd (by rw [idle]) changed
    · rw [driven] at changed
      obtain ⟨n, hn, ha⟩ := (pollSlot_onlySlot s k).addr_of_changed changed
      exact ⟨k, n, hn, ha, .inl ⟨isPoll, isCurrent⟩⟩
  | issued k _ _ _ isIssue _ =>
    obtain ⟨n, hn, ha⟩ := (acquire_onlySlot (s.txWrite _) k).addr_of_changed changed
    exact ⟨k, n, hn, ha, .inr ⟨isIssue, memRead_acquire _ hn⟩⟩
  | released k => exact absurd (by rw [mem_releaseSlot]) changed

/-- Settles O1: the table of R21, and the domain of a slot operand for the bytes beyond it. -/
theorem slotNumbersAndSizes : Obligations.SlotNumbersAndSizes :=
  ⟨rfl, rfl, rfl, rfl, fun k => (ofByte_eq_none_iff k).mpr, rfl, rfl, rfl, rfl⟩

/-- Settles O3, from what the reset input makes of each part of the state. -/
theorem resetInputRestoresBlock : Obligations.ResetInputRestoresBlock := by
  rintro s _ rfl
  exact ⟨slot_assertReset s, fun k n _ => memRead_assertReset s k n, rfl, rfl, rfl, rfl⟩

end Sys2Proof.Machine

/-! The family of 20_memory.md: the slot-buffer space (R40), and the transport with its users (R45 to R49). -/

namespace Sys2Proof.Machine

open Sys2Proof

/-! ### A result leaves the transport alone -/

@[simp] theorem rx_reply (s : State) (status : Status) (values : List Byte) :
    (s.reply status values).rx = s.rx := rfl

@[simp] theorem tx_reply (s : State) (status : Status) (values : List Byte) :
    (s.reply status values).tx = s.tx := rfl

/-! ### What keeps the form of the slot-buffer space -/

/-- The form of the space speaks of the memory only. -/
theorem BufferSpace.congr {s t : State} (space : BufferSpace s) (hmem : t.mem = s.mem) : BufferSpace t :=
  ⟨hmem ▸ space.canonical, hmem ▸ space.inSpace⟩

/-- An update that keeps the canonical form and lists new cells in slot k's buffer only keeps the form of the space. -/
theorem BufferSpace.of_listedWithin {s t : State} {k : SlotId} (space : BufferSpace s)
    (keepsWf : s.mem.wf → t.mem.wf) (listed : ListedWithin s t k) : BufferSpace t := by
  refine ⟨keepsWf space.canonical, fun c hc => ?_⟩
  rcases listed c hc with before | ⟨i, hi, haddr⟩
  · exact space.inSpace c before
  · exact ⟨k, i, hi, haddr⟩

theorem BufferSpace.zeroBuffer {s : State} (space : BufferSpace s) (k : SlotId) : BufferSpace (s.zeroBuffer k) :=
  space.of_listedWithin (zeroBuffer_wf s k) (zeroBuffer_listed s k)

theorem BufferSpace.acquire {s : State} (space : BufferSpace s) (k : SlotId) : BufferSpace (s.acquire k) := by
  obtain ⟨-, -, keepsWf, listed⟩ := mem_acquire s k
  exact space.of_listedWithin keepsWf listed

theorem BufferSpace.timeout {s : State} (space : BufferSpace s) (k : SlotId) : BufferSpace (s.timeout k) :=
  ((space.congr (mem_rxFlush s)).zeroBuffer k).congr (mem_timeout s k)

theorem BufferSpace.complete {s : State} {k : SlotId} (space : BufferSpace s) (enough : k.size ≤ s.rx.length) :
    BufferSpace (s.complete k) := by
  obtain ⟨-, -, -, keepsWf, listed, -⟩ := complete_spec s k enough
  exact space.of_listedWithin keepsWf listed

theorem BufferSpace.pollSlot {s : State} (space : BufferSpace s) (k : SlotId) : BufferSpace (s.pollSlot k) := by
  rcases pollSlot_cases s k with
    ⟨-, h⟩ | ⟨-, -, h⟩ | ⟨-, -, -, h⟩ | ⟨-, -, -, enough, h⟩ | ⟨-, -, -, -, h⟩ <;> rw [h]
  case inl => exact space
  case inr.inl => exact space.congr (mem_timerStart s k)
  case inr.inr.inl => exact space.timeout k
  case inr.inr.inr.inl => exact space.complete enough
  case inr.inr.inr.inr => exact space

theorem BufferSpace.pollCurrent {s : State} (space : BufferSpace s) : BufferSpace s.pollCurrent := by
  rcases pollCurrent_cases s with ⟨-, h⟩ | ⟨k, -, h⟩ <;> rw [h]
  case inl => exact space
  case inr => exact space.pollSlot k

/-- Every operation keeps the form of the space: only POLL and an accepted issue write the memory at all. -/
theorem exec_keeps_bufferSpace {i : Instr} {s t : State} (space : BufferSpace s) (h : exec i s = .next t) :
    BufferSpace t := by
  obtain ⟨u, status, values, rfl, effect⟩ := effect_of_exec h
  refine BufferSpace.congr ?_ (mem_reply u status values)
  cases effect with
  | same => exact space
  | poll => exact space.pollCurrent
  | issued k => exact (space.congr (mem_txWrite s _)).acquire k
  | released k => exact space.congr (mem_releaseSlot s k)

/-- At reset no cell is listed. -/
theorem bufferSpace_reset : BufferSpace State.reset := ⟨reset_mem_wf, by simp [State.reset]⟩

/-- Every environment event keeps the form of the space: only reset touches the memory. -/
theorem land_keeps_bufferSpace {s : State} (space : BufferSpace s) (e : Input) : BufferSpace (s.land e) := by
  cases e with
  | requestBytes => exact space.congr rfl
  | deviceBytes => exact space.congr rfl
  | clockAdvance => exact space.congr rfl
  | assertReset => exact bufferSpace_reset.congr rfl

/-- Settles O6: an operation writes inside one slot's buffer and canonically, an event touches the memory by reset
alone. -/
theorem stepKeepsBufferSpace : Obligations.StepKeepsBufferSpace := by
  intro s t space h
  rcases step_cases h with ⟨i, later, -, he⟩ | ⟨op, later, -, rfl⟩ | ⟨-, e, later, -, rfl⟩
  case inl => exact exec_keeps_bufferSpace (space.congr (mem_withReq s later)) he
  case inr.inl => exact space.congr rfl
  case inr.inr => exact land_keeps_bufferSpace (space.congr (mem_withInputs s later)) e

/-! ### The transport's users -/

/-- The receive machine sends nothing, and what it leaves unread is the end of the stream (R47, R49). -/
theorem pollSlot_transport (s : State) (k : SlotId) :
    (s.pollSlot k).tx = s.tx ∧ ∃ n, (s.pollSlot k).rx = s.rx.drop n := by
  rcases pollSlot_cases s k with
    ⟨-, h⟩ | ⟨-, -, h⟩ | ⟨-, -, -, h⟩ | ⟨-, -, -, enough, h⟩ | ⟨-, -, -, -, h⟩ <;> rw [h]
  case inl => exact ⟨rfl, 0, rfl⟩
  case inr.inl => exact ⟨tx_timerStart s k, 0, rx_timerStart s k⟩
  case inr.inr.inl => exact ⟨tx_timeout s k, s.rx.length, by rw [rx_timeout, List.drop_length]⟩
  case inr.inr.inr.inl =>
    obtain ⟨-, -, -, -, -, hrx, -, htx, -⟩ := complete_spec s k enough
    exact ⟨htx, k.size, hrx⟩
  case inr.inr.inr.inr => exact ⟨rfl, 0, rfl⟩

theorem pollCurrent_transport (s : State) :
    s.pollCurrent.tx = s.tx ∧ ∃ n, s.pollCurrent.rx = s.rx.drop n := by
  rcases pollCurrent_cases s with ⟨-, h⟩ | ⟨k, -, h⟩ <;> rw [h]
  case inl => exact ⟨rfl, 0, rfl⟩
  case inr => exact pollSlot_transport s k

/-- A command frame is 9 bytes (30_encoding.md R67). -/
theorem length_encodeFrame (dev cmd : Byte) (reg data : Half) : (encodeFrame dev cmd reg data).length = 9 := rfl

/-- Settles O22, by the effects of an operation: POLL alone touches what was received, an accepted issue alone what was
sent. -/
theorem transportUsersRule : Obligations.TransportUsersRule := by
  intro i s t h
  obtain ⟨u, status, values, rfl, effect⟩ := effect_of_exec h
  rw [rx_reply, tx_reply]
  cases effect with
  | same => exact ⟨absurd rfl, absurd rfl⟩
  | poll isPoll =>
    obtain ⟨htx, hrx⟩ := pollCurrent_transport s
    exact ⟨fun _ => ⟨isPoll, hrx⟩, absurd htx⟩
  | issued k cmd reg data isIssue _ =>
    exact ⟨absurd (by simp), fun _ => ⟨⟨k, isIssue⟩, _, length_encodeFrame Config.devAddr cmd reg data, by simp⟩⟩
  | released k => exact ⟨absurd (rx_releaseSlot s k), absurd (tx_releaseSlot s k)⟩

/-! ### Reading a buffer byte after a write -/

/-- A byte of a buffer is read back as written, and every other byte of the 90 as before. -/
theorem memRead_memWrite (s : State) {k j : SlotId} {i n : Nat} (v : Byte) (hi : i < k.size) (hn : n < j.size) :
    (s.memWrite k i v).memRead j n = if (k, i) = (j, n) then v else s.memRead j n := by
  have sameCell : slotAddr j n = slotAddr k i ↔ (k, i) = (j, n) := by
    rw [eq_comm, slotAddr_eq_iff k j i n (hi.trans (size_lt k)) (hn.trans (size_lt j)), Prod.mk.injEq]
  simp only [State.memRead, mem_memWrite, read_write, sameCell]

/-- Settles O57: the read after the write, at its own address and at another one. -/
theorem bufferReadAfterWrite : Obligations.BufferReadAfterWrite := by
  intro s k j i n v hi hn
  refine ⟨?own, fun elsewhere => ?other, rfl⟩
  case own => rw [memRead_memWrite s v hi hi, if_pos rfl]
  case other => rw [memRead_memWrite s v hi hn, if_neg elsewhere]

/-! ### The reset state and the transport primitives -/

/-- At reset no slot is used, so none is held. -/
theorem heldUntilRelease_reset : HeldUntilRelease State.reset := by
  intro k used
  rw [slot_reset] at used
  exact absurd used (by decide)

/-- What every state would keep under UNTIL_RELEASE is all the block's own policy can ask. -/
theorem HeldUntilRelease.policyInvariant {s : State} (held : HeldUntilRelease s) : PolicyInvariant s := by
  unfold PolicyInvariant
  split
  · exact held
  · trivial

/-- Settles O4: the slots are Idle, no cell is listed, no slot is held. -/
theorem invariantsHoldAtReset : Obligations.InvariantsHoldAtReset :=
  ⟨slotInvariants_assertReset State.reset, bufferSpace_reset, heldUntilRelease_reset.policyInvariant⟩

/-- Settles O58: each primitive is R45's own description of it, and RxRead's applies once a byte is there. -/
theorem transportPrimitives : Obligations.TransportPrimitives := by
  intro s b rest frame
  refine ⟨rfl, fun hrx => ?_, rfl, rfl⟩
  simp only [State.rxRead, hrx]

end Sys2Proof.Machine

/-! The family of 30_encoding.md: the decoder and the encoder are inverse to each other (R60, R61, R63), what a step
does with what stands on the request port (R61, R64, R66), what every operation answers (R62, R70), the wire frame (R67) and
the command ids outside an operation's class (R65, R69). -/

namespace Sys2Proof.Machine

open Sys2Proof

/-! ### From an instruction to its bytes and back -/

/-- A code is looked up, then the operands are read (R61). -/
@[simp] theorem decode_code (op : Op) (bytes : List Byte) : decode (op.code :: bytes) = decodeOperands op bytes := by
  simp only [decode, ofByte_code]

theorem decode_unassigned {b : Byte} (unassigned : Op.ofByte b = none) (bytes : List Byte) :
    decode (b :: bytes) = .illegal b bytes := by
  simp only [decode, unassigned]

/-- Format FL: the count byte says where the list ends. -/
theorem decodeList_append (mk : List Byte → Instr) {xs : List Byte} (fits : xs.length ≤ 255) (later : List Byte) :
    decodeList mk (BitVec.ofNat 8 xs.length :: (xs ++ later)) = .request (mk xs) later := by
  simp [decodeList, count_toNat fits]

/-- The operands of a well-formed instruction are read back, and no byte after them. -/
theorem decodeOperands_operandBytes {i : Instr} (wf : i.WellFormed) (later : List Byte) :
    decodeOperands i.op (i.operandBytes ++ later) = .request i later := by
  cases i with
  | csum xs => exact decodeList_append .csum (of_decide_eq_true wf) later
  | chkframe xs => exact decodeList_append .chkframe (of_decide_eq_true wf) later
  | encode | rdReg | wrReg | rdDisplay => simp [Instr.op, Instr.operandBytes, decodeOperands]
  | nop | decode16 | rdLastErr | rdPrevErr | rdVersion | poll | release | isUsed | isPending | isValid | getDevaddr
  | readBuf | getValue | getErrId | getErrLog | getDisplay => rfl

/-- Settles O8: the encoder writes the code the decoder looks up, then the operands it reads back. -/
theorem decodeOfEncode : Obligations.DecodeOfEncode := by
  intro i later wf
  calc decode (encode i ++ later)
      = decodeOperands i.op (i.operandBytes ++ later) := decode_code i.op _
    _ = .request i later := decodeOperands_operandBytes wf later

/-- Settles O10: each sample is the encoding of what it stands for, followed by the rest. -/
theorem sampleRequestsDecode : Obligations.SampleRequestsDecode :=
  ⟨decodeOfEncode .nop [] rfl,
    decodeOfEncode (.chkframe [0x42]) [] rfl,
    decodeOfEncode (.encode 0x81 0x02 0x0209 0x00F0) [] rfl,
    decodeOfEncode (.decode16 0x00 0x01 0x70) [] rfl,
    decodeOfEncode (.wrReg 0x03 0x0209 0x00F0) [] rfl,
    decodeOfEncode (.readBuf 2 41) [0x20] rfl⟩

/-! ### From bytes to what the decoder makes of them -/

/-- The length of a request with an assigned opcode is its format's (R60, R61). -/
@[simp] theorem requestLength_code (op : Op) (bytes : List Byte) :
    requestLength (op.code :: bytes) = op.format.length bytes := by
  simp only [requestLength, ofByte_code]

theorem requestLength_unassigned {b : Byte} (unassigned : Op.ofByte b = none) (bytes : List Byte) :
    requestLength (b :: bytes) = some 1 := by
  simp only [requestLength, unassigned]

/-- What each answer of the decoder says of the bytes it was given. -/
inductive ReadsAs (bytes : List Byte) : Decoded → Prop
  /-- A request: the encoding of a well-formed instruction stands in front. -/
  | request (i : Instr) (later : List Byte) (wf : i.WellFormed) (spelt : bytes = encode i ++ later) :
      ReadsAs bytes (.request i later)
  /-- Not a request's opcode: it stands in front, alone (R64). -/
  | illegal (op : Byte) (later : List Byte) (unassigned : Op.ofByte op = none) (front : bytes = op :: later) :
      ReadsAs bytes (.illegal op later)
  /-- Not a whole request: whatever length the bytes announce, they fall short of it (R66). -/
  | incomplete (short : ∀ n, requestLength bytes = some n → bytes.length < n) : ReadsAs bytes .incomplete

/-- Fewer bytes than a format announces are no request. -/
theorem ReadsAs.of_short {op : Op} {bytes : List Byte} {n : Nat} (announced : op.format.length bytes = some n)
    (short : (op.code :: bytes).length < n) : ReadsAs (op.code :: bytes) .incomplete := by
  refine .incomplete fun m hm => ?_
  rw [requestLength_code, announced, Option.some.injEq] at hm
  exact hm ▸ short

/-- Format FL: the bytes the count announces are there, or it is not a request yet. -/
theorem decodeList_readsAs {op : Op} {mk : List Byte → Instr} (format : op.format = .fl)
    (spelling : ∀ xs, encode (mk xs) = op.code :: BitVec.ofNat 8 xs.length :: xs)
    (wf : ∀ xs : List Byte, xs.length ≤ 255 → (mk xs).WellFormed) (bytes : List Byte) :
    ReadsAs (op.code :: bytes) (decodeList mk bytes) := by
  cases bytes with
  | nil => exact .incomplete (by simp [format, Format.length])
  | cons n rest =>
    rw [decodeList]
    split
    · next enough =>
      have count : (rest.take n.toNat).length = n.toNat := List.length_take_of_le enough
      have fits : n.toNat ≤ 255 := Nat.le_of_lt_succ n.isLt
      exact .request _ _ (wf _ (count.trans_le fits)) (by simp [spelling, count])
    · next tooFew => exact .of_short (by rw [format, Format.length]) (by simp only [List.length_cons]; omega)

/-- Format FS: the slot id is there, or it is not a request yet. -/
theorem decodeSlot_readsAs {op : Op} {mk : Byte → Instr} (format : op.format = .fs)
    (spelling : ∀ k, encode (mk k) = [op.code, k]) (wf : ∀ k, (mk k).WellFormed) (bytes : List Byte) :
    ReadsAs (op.code :: bytes) (decodeSlot mk bytes) := by
  cases bytes with
  | nil => exact .of_short (by rw [format, Format.length]) (by simp)
  | cons k rest => exact .request _ _ (wf k) (by simp [spelling])

/-- What the operands of each operation say. In a format of fixed length either every operand is there, or the bytes are
one of the shorter lists. -/
theorem decodeOperands_readsAs (op : Op) (bytes : List Byte) :
    ReadsAs (op.code :: bytes) (decodeOperands op bytes) := by
  cases op with
  | csum => exact decodeList_readsAs rfl (fun _ => rfl) (fun _ => decide_eq_true) bytes
  | chkframe => exact decodeList_readsAs rfl (fun _ => rfl) (fun _ => decide_eq_true) bytes
  | encode =>
    match bytes with
    | dev :: cmd :: rh :: rl :: dh :: dl :: rest =>
      exact .request (.encode dev cmd (be16 rh rl) (be16 dh dl)) rest rfl
        (by simp [encode, Instr.op, Instr.operandBytes])
    | [] | [_] | [_, _] | [_, _, _] | [_, _, _, _] | [_, _, _, _, _] => exact .of_short rfl (by simp)
  | decode16 =>
    match bytes with
    | g2 :: g1 :: g0 :: rest => exact .request (.decode16 g2 g1 g0) rest rfl rfl
    | [] | [_] | [_, _] => exact .of_short rfl (by simp)
  | rdReg =>
    match bytes with
    | cmd :: rh :: rl :: rest =>
      exact .request (.rdReg cmd (be16 rh rl)) rest rfl (by simp [encode, Instr.op, Instr.operandBytes])
    | [] | [_] | [_, _] => exact .of_short rfl (by simp)
  | wrReg =>
    match bytes with
    | cmd :: rh :: rl :: dh :: dl :: rest =>
      exact .request (.wrReg cmd (be16 rh rl) (be16 dh dl)) rest rfl
        (by simp [encode, Instr.op, Instr.operandBytes])
    | [] | [_] | [_, _] | [_, _, _] | [_, _, _, _] => exact .of_short rfl (by simp)
  | rdDisplay =>
    match bytes with
    | rh :: rl :: rest =>
      exact .request (.rdDisplay (be16 rh rl)) rest rfl (by simp [encode, Instr.op, Instr.operandBytes])
    | [] | [_] => exact .of_short rfl (by simp)
  | readBuf =>
    match bytes with
    | k :: i :: rest => exact .request (.readBuf k i) rest rfl rfl
    | [] | [_] => exact .of_short rfl (by simp)
  | release | isUsed | isPending | isValid | getDevaddr =>
    exact decodeSlot_readsAs rfl (fun _ => rfl) (fun _ => rfl) bytes
  | nop | rdLastErr | rdPrevErr | rdVersion | poll | getValue | getErrId | getErrLog | getDisplay =>
    exact .request _ bytes rfl rfl

/-- What the decoder's answer says of the port, whatever stands on it. -/
theorem decode_readsAs (bytes : List Byte) : ReadsAs bytes (decode bytes) := by
  cases bytes with
  | nil => exact .incomplete (by simp [requestLength])
  | cons b rest =>
    cases hb : Op.ofByte b with
    | none =>
      rw [decode_unassigned hb]
      exact .illegal b rest hb rfl
    | some op =>
      obtain rfl : b = op.code := (ofByte_eq_some_iff b op).mp hb
      rw [decode_code]
      exact decodeOperands_readsAs op rest

/-- Settles O9, from what an answered request says of the bytes. -/
theorem encodeOfDecode : Obligations.EncodeOfDecode := by
  intro bytes later i h
  have reading := decode_readsAs bytes
  rw [h] at reading
  cases reading with
  | request _ _ wf spelt => exact ⟨wf, spelt⟩

/-- The bytes of every well-formed instruction announce their own number (`Laws/PerInstr.lean`). -/
theorem encodedLength (i : Instr) : Laws.EncodedLength.Statement i := by
  cases i with
  | csum xs => exact Laws.EncodedLength.csum xs
  | chkframe xs => exact Laws.EncodedLength.chkframe xs
  | nop | encode | decode16 | rdReg | wrReg | rdLastErr | rdPrevErr | rdVersion | rdDisplay | poll | release | isUsed
  | isPending | isValid | getDevaddr | readBuf | getValue | getErrId | getErrLog | getDisplay => exact fun _ _ => rfl

/-! ### What stands on the port decides the step -/

theorem step_of_request {s : State} {i : Instr} {later : List Byte} (hd : decode s.req = .request i later) :
    step s = exec i (s.withReq later) := by
  simp only [step, hd]

theorem step_of_illegal {s : State} {op : Byte} {later : List Byte} (hd : decode s.req = .illegal op later) :
    step s = .next (s.withReq later).replyIllegal := by
  simp only [step, hd]

theorem step_of_waiting {s : State} (hd : decode s.req = .incomplete) (noEvent : s.inputs = []) :
    step s = .refused .requestIncomplete := by
  simp only [step, hd, noEvent]

/-- Settles O11: what decodes is well formed (O9), and it is what the step runs. -/
theorem stepRunsDecodedRequest : Obligations.StepRunsDecodedRequest :=
  fun s i later hd => ⟨(encodeOfDecode s.req later i hd).1, step_of_request hd⟩

/-- The ranges of R64. -/
abbrev UnassignedCode (b : Byte) : Prop :=
  0x05 ≤ b.toNat ∧ b.toNat ≤ 0x0F ∨ 0x16 ≤ b.toNat ∧ b.toNat ≤ 0x1F ∨ 0x22 ≤ b.toNat ∧ b.toNat ≤ 0x2F ∨
    0x35 ≤ b.toNat ∧ b.toNat ≤ 0x3F ∨ 0x44 ≤ b.toNat

/-- No operation of the opcode map has its code in those ranges. -/
theorem code_assigned (op : Op) : ¬ UnassignedCode op.code := by cases op <;> decide

theorem ofByte_eq_none_of_unassigned {b : Byte} (unassigned : UnassignedCode b) : Op.ofByte b = none := by
  cases hb : Op.ofByte b with
  | none => rfl
  | some op =>
    obtain rfl : b = op.code := (ofByte_eq_some_iff b op).mp hb
    exact absurd unassigned (code_assigned op)

/-- Settles O12: the opcode selects no operation, so the decoder takes it alone and the step answers ILLEGAL. -/
theorem unassignedOpcodeAnswered : Obligations.UnassignedOpcodeAnswered := by
  intro s op later hreq unassigned
  have hd : decode s.req = .illegal op later := by
    rw [hreq, decode_unassigned (ofByte_eq_none_of_unassigned unassigned)]
  rw [step_of_illegal hd]
  rfl

/-! ### What no operation touches, and what it answers -/

/-- The clock, the request port, the answers and the events still to land: nothing an operation's effect on the block
touches. -/
structure SameInterface (s u : State) : Prop where
  /-- The clock is read at most (10_state.md R31). -/
  now : u.now = s.now
  /-- The request's own bytes left the port before it ran (log entry 1). -/
  req : u.req = s.req
  /-- The answer comes after the effect (log entry 2). -/
  out : u.out = s.out
  /-- No event lands during an operation (log entry 3). -/
  inputs : u.inputs = s.inputs

theorem pollSlot_sameInterface (s : State) (k : SlotId) : SameInterface s (s.pollSlot k) := by
  rcases pollSlot_cases s k with
    ⟨-, h⟩ | ⟨-, -, h⟩ | ⟨-, -, -, h⟩ | ⟨-, -, -, enough, h⟩ | ⟨-, -, -, -, h⟩ <;> rw [h]
  case inl => exact ⟨rfl, rfl, rfl, rfl⟩
  case inr.inl =>
    exact ⟨now_timerStart s k, req_timerStart s k, out_timerStart s k, inputs_timerStart s k⟩
  case inr.inr.inl => exact ⟨now_timeout s k, req_timeout s k, out_timeout s k, inputs_timeout s k⟩
  case inr.inr.inr.inl =>
    obtain ⟨-, -, -, -, -, -, -, -, hnow, hreq, hout, hinputs⟩ := complete_spec s k enough
    exact ⟨hnow, hreq, hout, hinputs⟩
  case inr.inr.inr.inr => exact ⟨rfl, rfl, rfl, rfl⟩

theorem pollCurrent_sameInterface (s : State) : SameInterface s s.pollCurrent := by
  rcases pollCurrent_cases s with ⟨-, h⟩ | ⟨k, -, h⟩ <;> rw [h]
  case inl => exact ⟨rfl, rfl, rfl, rfl⟩
  case inr => exact pollSlot_sameInterface s k

theorem effect_sameInterface {i : Instr} {s u : State} {status : Status} {values : List Byte}
    (effect : ExecEffect i s u status values) : SameInterface s u := by
  cases effect with
  | same => exact ⟨rfl, rfl, rfl, rfl⟩
  | poll => exact pollCurrent_sameInterface s
  | issued k => exact ⟨by simp, by simp, by simp, by simp⟩
  | released k => exact ⟨now_releaseSlot s k, req_releaseSlot s k, out_releaseSlot s k, inputs_releaseSlot s k⟩

/-- A status other than OK stands alone and comes with no effect (R70, 60_exceptions.md R142). -/
theorem effect_of_failure {i : Instr} {s u : State} {status : Status} {values : List Byte}
    (effect : ExecEffect i s u status values) (failed : status ≠ .ok) : values = [] ∧ u = s := by
  cases effect with
  | same _ _ alone => exact ⟨alone failed, rfl⟩
  | poll | issued | released => exact absurd rfl failed

/-- The codes of R70. -/
theorem code_mem_statusCodes (status : Status) : status.code ∈ [(0x00 : Byte), 0x01, 0x02, 0xFF] := by
  cases status <;> decide

/-- Settles O16: by `exec_cases` an operation is one reply given after its effect. -/
theorem everyOperationAnswers : Obligations.EveryOperationAnswers := by
  intro i s
  obtain ⟨u, status, values, he, effect⟩ := exec_cases i s
  obtain ⟨hnow, hreq, hout, hinputs⟩ := effect_sameInterface effect
  refine ⟨u.reply status values, status.code, values, he, ?answered, code_mem_statusCodes status, ?failing,
    hnow, hreq, hinputs⟩
  case answered => rw [reply_eq, out_answer, hout]
  case failing =>
    intro notOk
    obtain ⟨rfl, rfl⟩ := effect_of_failure effect (fun ok => notOk (congrArg Status.code ok))
    exact ⟨rfl, rfl⟩

/-! ### Truncated and whole requests -/

/-- The port holds no whole request exactly when it holds fewer bytes than any length they announce (R66). -/
theorem decode_incomplete_iff (bytes : List Byte) :
    decode bytes = .incomplete ↔ ∀ n, requestLength bytes = some n → bytes.length < n := by
  have reading := decode_readsAs bytes
  generalize decode bytes = d at reading
  cases reading with
  | request i later wf spelt =>
    subst spelt
    simp [encodedLength i wf later]
  | illegal op later unassigned front =>
    subst front
    simp [requestLength_unassigned unassigned]
  | incomplete short => exact iff_of_true rfl short

/-- No environment event answers a request, and reset takes no answer back (log entry 7). -/
theorem out_land (s : State) (e : Input) : (s.land e).out = s.out := by cases e <;> rfl

/-- An operation leaves the port as the step hands it over. -/
theorem req_of_exec {i : Instr} {s t : State} (h : exec i s = .next t) : t.req = s.req := by
  obtain ⟨u, status, values, rfl, effect⟩ := effect_of_exec h
  exact (effect_sameInterface effect).req

/-- The step on a port that holds a whole request leaves the bytes after it. -/
theorem step_drops_request {s t : State} {n : Nat} (announced : requestLength s.req = some n)
    (whole : n ≤ s.req.length) (h : step s = .next t) : t.req = s.req.drop n := by
  rcases step_cases h with ⟨i, later, hd, he⟩ | ⟨op, later, hd, rfl⟩ | ⟨hd, -⟩
  case inl =>
    obtain ⟨wf, spelt⟩ := encodeOfDecode s.req later i hd
    rw [spelt, encodedLength i wf later, Option.some.injEq] at announced
    rw [req_of_exec he, req_withReq, spelt, ← announced, List.drop_left]
  case inr.inl =>
    have reading := decode_readsAs s.req
    rw [hd] at reading
    cases reading with
    | illegal _ _ unassigned front =>
      rw [front, requestLength_unassigned unassigned, Option.some.injEq] at announced
      rw [front, ← announced]
      rfl
  case inr.inr => exact absurd ((decode_incomplete_iff s.req).mp hd n announced) (Nat.not_lt.mpr whole)

/-- Settles O13: too few bytes are exactly those the decoder finds incomplete, where the step waits or lands an event; a
whole request leaves the bytes after it. -/
theorem truncatedRequestHasNoStep : Obligations.TruncatedRequestHasNoStep := by
  refine ⟨fun s short => ?truncated, fun s t n => step_drops_request⟩
  have hd : decode s.req = .incomplete := (decode_incomplete_iff s.req).mpr short
  exact ⟨step_of_waiting hd, fun e later he => ⟨_, step_of_incomplete hd he, rfl, out_land _ e⟩⟩

/-! ### The wire frame -/

/-- Shifting down by n and masking with w ones is the bit field of w bits from bit n on. -/
theorem setWidth_shift_mask (v : Half) (n : Nat) {w : Nat} (hw : w ≤ 16) :
    ((v >>> n) &&& BitVec.ofNat 16 (2 ^ w - 1)).setWidth 8 = (v.extractLsb' n w).setWidth 8 := by
  have mask : (2 ^ w - 1) % 2 ^ 16 = 2 ^ w - 1 := by
    have : 2 ^ w ≤ 2 ^ 16 := Nat.pow_le_pow_right (by decide) hw
    have : 0 < 2 ^ w := Nat.two_pow_pos w
    omega
  apply BitVec.eq_of_toNat_eq
  rw [BitVec.toNat_setWidth, BitVec.toNat_setWidth, BitVec.toNat_and, BitVec.toNat_ofNat, mask,
    Nat.and_two_pow_sub_one_eq_mod, BitVec.extractLsb'_toNat, BitVec.toNat_ushiftRight]

/-- The splitter's shifts and masks are R67's bit fields. -/
theorem split16_eq_wireGroups (v : Half) : split16 v = wireGroups v := by
  have bits15to14 : ((v >>> 14) &&& 0x03#16).setWidth 8 = _ := setWidth_shift_mask v 14 (w := 2) (by decide)
  have bits13to7 : ((v >>> 7) &&& 0x7F#16).setWidth 8 = _ := setWidth_shift_mask v 7 (w := 7) (by decide)
  have bits6to0 : (v &&& 0x7F#16).setWidth 8 = _ := setWidth_shift_mask v 0 (w := 7) (by decide)
  rw [split16, wireGroups, bits15to14, bits13to7, bits6to0]

theorem encodeFrame_eq_wireFrame (dev cmd : Byte) (reg data : Half) :
    encodeFrame dev cmd reg data = wireFrame dev cmd reg data := by
  simp only [encodeFrame, wireFrame, split16_eq_wireGroups, List.cons_append, List.nil_append]

/-- Settles O26: ENCODE answers the frame of R92, which is that of R67. -/
theorem encodeBuildsWireFrame : Obligations.EncodeBuildsWireFrame := by
  intro dev cmd reg data s
  rw [← encodeFrame_eq_wireFrame]
  exact ⟨rfl, length_encodeFrame dev cmd reg data⟩

/-! ### Command ids outside an operation's class -/

/-- The ids being distinct, an id's byte tells whether the command is listed. -/
theorem isIdOf_cmdId (ids : List CmdId) (c : CmdId) : isIdOf ids (Config.cmdId c) = true ↔ c ∈ ids := by
  simp [isIdOf, cmdId_injective.eq_iff]

/-- The two register classes of R69 share no id. -/
theorem registerClasses_disjoint : ∀ c ∈ readRegisterIds, c ∉ writeRegisterIds := by decide

theorem exec_rdReg_illegal {cmd : Byte} (foreign : ¬ isIdOf readRegisterIds cmd = true) (reg : Half) (s : State) :
    exec (.rdReg cmd reg) s = .next s.replyIllegal := by
  simp only [exec, execRdReg, if_neg foreign]

theorem exec_wrReg_illegal {cmd : Byte} (foreign : ¬ isIdOf writeRegisterIds cmd = true) (reg data : Half)
    (s : State) : exec (.wrReg cmd reg data) s = .next s.replyIllegal := by
  simp only [exec, execWrReg, if_neg foreign]

/-- Settles O33: the classes are disjoint, so an id of one is no id of the other, and the answer is ILLEGAL before the
arbiter is asked. -/
theorem wrongClassIdIsIllegal : Obligations.WrongClassIdIsIllegal := by
  intro reg data s
  refine ⟨fun c isWrite => ?_, fun c isRead => ?_⟩
  · have foreign : c ∉ readRegisterIds := fun isRead => registerClasses_disjoint c isRead isWrite
    exact exec_rdReg_illegal (mt (isIdOf_cmdId _ c).mp foreign) reg s
  · have foreign : c ∉ writeRegisterIds := registerClasses_disjoint c isRead
    exact exec_wrReg_illegal (mt (isIdOf_cmdId _ c).mp foreign) reg data s

end Sys2Proof.Machine

/-! The family of 40_checksum.md: the frame check (R81), CSUM (R82) and CHKFRAME (R83). No law of the checksum function is
used (R80). -/

namespace Sys2Proof.Machine

open Sys2Proof

/-! ### The frame check -/

/-- R83: below two bytes no checksum byte is present. -/
theorem checksumMatches_of_short {xs : List Byte} (short : xs.length < 2) : checksumMatches xs = false := by
  simp only [checksumMatches, decide_eq_false (Nat.not_le.mpr short), Bool.false_and]

/-- The covered range leaves out the first byte and the last (R81). -/
theorem slice_covered (first last : Byte) (covered : List Byte) :
    slice (first :: covered ++ [last]) 1 covered.length = covered := by
  simp [slice]

/-- R81, on a frame taken apart into a first byte, the covered bytes and the checksum byte. -/
theorem checksumMatches_frame (first last : Byte) (covered : List Byte) :
    checksumMatches (first :: covered ++ [last]) = decide (last = Config.checksum covered) := by
  have length : (first :: covered ++ [last]).length = covered.length + 2 := by simp
  have lastByte : (first :: covered ++ [last])[covered.length + 1]? = some last := by simp
  simp only [checksumMatches, length, Nat.add_sub_cancel, slice_covered, Nat.add_succ_sub_one, lastByte]
  rw [Bool.eq_iff_iff]
  simp

/-- Two bytes or more are a first byte, covered ones and a last byte. -/
theorem short_or_frame (xs : List Byte) :
    xs.length < 2 ∨ ∃ (first last : Byte) (covered : List Byte), xs = first :: covered ++ [last] := by
  cases xs with
  | nil => exact .inl (by decide)
  | cons first rest =>
    rcases List.eq_nil_or_concat rest with rfl | ⟨covered, last, rfl⟩
    · exact .inl (by simp)
    · exact .inr ⟨first, last, covered, by simp⟩

/-- The check passes exactly on the covered bytes between any first byte and their own checksum. -/
theorem checksumMatches_iff (xs : List Byte) : checksumMatches xs = true ↔
    ∃ (first : Byte) (covered : List Byte), xs = first :: covered ++ [Config.checksum covered] := by
  constructor
  · intro passes
    rcases short_or_frame xs with short | ⟨first, last, covered, rfl⟩
    · simp [checksumMatches_of_short short] at passes
    · rw [checksumMatches_frame, decide_eq_true_eq] at passes
      exact ⟨first, covered, by rw [passes]⟩
  · rintro ⟨first, covered, rfl⟩
    rw [checksumMatches_frame, decide_eq_true_eq]

/-! ### A flag as a result byte -/

theorem bitByte_cases (b : Bool) : bitByte b = 0x00 ∨ bitByte b = 0x01 := by cases b <;> decide

theorem bitByte_eq_one_iff (b : Bool) : bitByte b = 0x01 ↔ b = true := by cases b <;> decide

theorem bitByte_decide (p : Prop) [Decidable p] : bitByte (decide p) = if p then 0x01 else 0x00 := by
  simp only [bitByte, decide_eq_true_eq]

/-! ### The two operations -/

/-- A result with status OK joins the answers (30_encoding.md R62, R70). -/
theorem reply_ok (s : State) (values : List Byte) :
    s.reply .ok values = { s with out := s.out ++ [0x00 :: values] } := by
  rw [reply_eq, answer_eq, code_ok]

theorem exec_csum (bytes : List Byte) (s : State) :
    exec (.csum bytes) s = .next (s.reply .ok [Config.checksum bytes]) := rfl

theorem exec_chkframe (bytes : List Byte) (s : State) :
    exec (.chkframe bytes) s = .next (s.reply .ok [bitByte (checksumMatches bytes)]) := rfl

/-- Settles O24: the operation is one reply, and a reply only joins the answers. -/
theorem csumResult : Obligations.CsumResult := by
  intro bytes s
  rw [exec_csum, reply_ok]

/-- Settles O25, from the check on a short list and on a frame. -/
theorem chkframeResult : Obligations.ChkframeResult := by
  refine fun s => ⟨fun bytes short => ?short, fun first last covered => ?frame⟩
  case short =>
    rw [exec_chkframe, reply_ok, checksumMatches_of_short short]
    rfl
  case frame => rw [exec_chkframe, reply_ok, checksumMatches_frame, bitByte_decide]

/-- Settles O59: the answered byte is the check's outcome, and `checksumMatches_iff` says when it passes. -/
theorem chkframeCompletes : Obligations.ChkframeCompletes := by
  intro bytes s
  refine ⟨bitByte (checksumMatches bytes), bitByte_cases _, ?answered, ?passes⟩
  case answered => rw [exec_chkframe, reply_ok]
  case passes => rw [bitByte_eq_one_iff, checksumMatches_iff]

end Sys2Proof.Machine

/-! The family of 41_frame_codec.md: the joiner and DECODE16 (R91, R93), and that it takes back what ENCODE laid out
(R94). -/

namespace Sys2Proof.Machine

open Sys2Proof

/-! ### The joiner -/

/-- Masking a widened byte with w ones keeps its bits below w. -/
theorem getLsbD_setWidth_mask (g : Byte) {w : Nat} (hw : w ≤ 16) (i : Nat) :
    (g.setWidth 16 &&& BitVec.ofNat 16 (2 ^ w - 1)).getLsbD i = (decide (i < w) && g.getLsbD i) := by
  rw [BitVec.getLsbD_and, BitVec.getLsbD_setWidth, BitVec.getLsbD_ofNat, Nat.testBit_two_pow_sub_one]
  by_cases inField : i < w
  · simp [inField, show i < 16 by omega]
  · simp [inField]

/-- R91 bit by bit: the masked and shifted groups lie side by side. -/
theorem getLsbD_join16 (g2 g1 g0 : Byte) {i : Nat} (hi : i < 16) : (join16 g2 g1 g0).getLsbD i =
    if i < 7 then g0.getLsbD i else if i < 14 then g1.getLsbD (i - 7) else g2.getLsbD (i - 14) := by
  have top : (g2.setWidth 16 &&& 0x0003#16).getLsbD (i - 14) = _ := getLsbD_setWidth_mask g2 (w := 2) (by decide) _
  have middle : (g1.setWidth 16 &&& 0x007F#16).getLsbD (i - 7) = _ := getLsbD_setWidth_mask g1 (w := 7) (by decide) _
  have low : (g0.setWidth 16 &&& 0x007F#16).getLsbD i = _ := getLsbD_setWidth_mask g0 (w := 7) (by decide) _
  simp only [join16, BitVec.getLsbD_or, BitVec.getLsbD_shiftLeft, top, middle, low, hi]
  rcases Nat.lt_or_ge i 7 with inLow | aboveLow
  · simp [inLow, show i < 14 by omega]
  rcases Nat.lt_or_ge i 14 with inMiddle | aboveMiddle
  · simp [inMiddle, Nat.not_lt.mpr aboveLow, show i - 7 < 7 by omega]
  · simp [Nat.not_lt.mpr aboveLow, Nat.not_lt.mpr aboveMiddle, show ¬ i - 7 < 7 by omega, show i - 14 < 2 by omega]

/-- A field of a 16-bit value is a byte's low bits when it agrees with them bit by bit. -/
theorem extractLsb'_eq_of_bits {v : Half} {g : Byte} {n w : Nat}
    (bits : ∀ i < w, v.getLsbD (n + i) = g.getLsbD i) : v.extractLsb' n w = g.extractLsb' 0 w := by
  apply BitVec.eq_of_getLsbD_eq
  intro i hi
  rw [BitVec.getLsbD_extractLsb', BitVec.getLsbD_extractLsb', bits i hi, Nat.zero_add]

theorem isJoined_join16 (g2 g1 g0 : Byte) : IsJoined (join16 g2 g1 g0) g2 g1 g0 := by
  refine ⟨extractLsb'_eq_of_bits fun i hi => ?top, extractLsb'_eq_of_bits fun i hi => ?middle,
    extractLsb'_eq_of_bits fun i hi => ?low⟩ <;> rw [getLsbD_join16 g2 g1 g0 (by omega)]
  case top => rw [if_neg (by omega), if_neg (by omega), Nat.add_sub_cancel_left]
  case middle => rw [if_neg (by omega), if_pos (by omega), Nat.add_sub_cancel_left]
  case low => rw [if_pos (by omega), Nat.zero_add]

/-- A 16-bit value is its three fields, side by side (R90). -/
theorem eq_append_fields (v : Half) : v = v.extractLsb' 14 2 ++ (v.extractLsb' 7 7 ++ v.extractLsb' 0 7) := by
  have lower : v.extractLsb' 7 7 ++ v.extractLsb' 0 7 = v.extractLsb' 0 14 :=
    BitVec.extractLsb'_append_extractLsb'_eq_extractLsb' rfl
  have whole : v.extractLsb' 14 2 ++ v.extractLsb' 0 14 = v.extractLsb' 0 16 :=
    BitVec.extractLsb'_append_extractLsb'_eq_extractLsb' rfl
  rw [lower, whole, BitVec.extractLsb'_eq_self]

/-- The three fields are all of a 16-bit value, so groups join to one value only. -/
theorem isJoined_unique {v u : Half} {g2 g1 g0 : Byte} (hv : IsJoined v g2 g1 g0) (hu : IsJoined u g2 g1 g0) :
    v = u := by
  obtain ⟨vTop, vMiddle, vLow⟩ := hv
  obtain ⟨uTop, uMiddle, uLow⟩ := hu
  rw [eq_append_fields v, eq_append_fields u, vTop, vMiddle, vLow, uTop, uMiddle, uLow]

/-- The joiner is the one function of the groups that R91's fields allow. -/
theorem isJoined_iff (v : Half) (g2 g1 g0 : Byte) : IsJoined v g2 g1 g0 ↔ v = join16 g2 g1 g0 :=
  ⟨fun joined => isJoined_unique joined (isJoined_join16 g2 g1 g0), fun h => h ▸ isJoined_join16 g2 g1 g0⟩

/-- A field widened to a byte is read back from the byte's low bits. -/
theorem extractLsb'_setWidth_field (v : Half) (n : Nat) {w : Nat} (hw : w ≤ 8) :
    ((v.extractLsb' n w).setWidth 8).extractLsb' 0 w = v.extractLsb' n w := by
  rw [← BitVec.setWidth_eq_extractLsb' hw, BitVec.setWidth_setWidth_of_le _ hw, BitVec.setWidth_eq]

/-- A value has the fields of its own wire groups (R67). -/
theorem isJoined_wireGroups (v : Half) : IsJoined v ((v.extractLsb' 14 2).setWidth 8)
    ((v.extractLsb' 7 7).setWidth 8) ((v.extractLsb' 0 7).setWidth 8) :=
  ⟨(extractLsb'_setWidth_field v 14 (by decide)).symm, (extractLsb'_setWidth_field v 7 (by decide)).symm,
    (extractLsb'_setWidth_field v 0 (by decide)).symm⟩

/-! ### DECODE16 -/

theorem exec_decode16 (g2 g1 g0 : Byte) (s : State) :
    exec (.decode16 g2 g1 g0) s = .next (s.reply .ok (halfBytes (join16 g2 g1 g0))) := rfl

/-- R93, on the value that the groups join to. -/
theorem exec_decode16_of_isJoined {v : Half} {g2 g1 g0 : Byte} (joined : IsJoined v g2 g1 g0) (s : State) :
    exec (.decode16 g2 g1 g0) s =
      .next { s with out := s.out ++ [[0x00, v.extractLsb' 8 8, v.extractLsb' 0 8]] } := by
  obtain rfl := (isJoined_iff v g2 g1 g0).mp joined
  rw [exec_decode16, reply_ok]
  rfl

/-- Settles O27: the joiner's value has the groups' fields, and DECODE16 answers that value. -/
theorem decode16JoinsGroups : Obligations.Decode16JoinsGroups := fun g2 g1 g0 s =>
  have joined := isJoined_join16 g2 g1 g0
  ⟨_, joined, exec_decode16_of_isJoined joined s⟩

/-- Settles O28: ENCODE's frame carries the wire groups of reg and data, and each value is joined from its own. -/
theorem codecRoundTrip : Obligations.CodecRoundTrip := fun dev cmd reg data s =>
  have ⟨frame, _⟩ := encodeBuildsWireFrame dev cmd reg data s
  ⟨_, _, _, _, _, _, _, frame, exec_decode16_of_isJoined (isJoined_wireGroups reg) s,
    exec_decode16_of_isJoined (isJoined_wireGroups data) s⟩

end Sys2Proof.Machine

/-! The family of 42_receive_fsm.md: the states of a slot's receive machine (R100), its deadline timer (R101, R102), and
what POLL does in each of them (R103 to R108). -/

namespace Sys2Proof.Machine

open Sys2Proof

/-! ### The states (R100) -/

theorem phase_of_pending {r : SlotRegs} (pending : r.pending = true) :
    r.phase = if r.tmrArmed then .pending else .awaitingTimeoutStart := by
  rw [SlotRegs.phase, if_pos pending]

theorem phase_of_settled {r : SlotRegs} (settled : r.pending = false) :
    r.phase = if r.used then (if r.rcvd then .complete else .timedOut) else .idle := by
  rw [SlotRegs.phase, if_neg (by simp [settled])]

/-! ### The deadline -/

/-- R101 for a running timer: "at least", so the deadline itself counts as passed. -/
theorem elapsed_iff {s : State} {k : SlotId} (running : (s.slot k).tmrArmed = true) :
    s.elapsed k = true ↔ 30000 ≤ (s.now - (s.slot k).tmrStart).toNat := by
  rw [State.elapsed, running, Bool.true_and, decide_eq_true_eq, timeoutMs]

theorem elapsed_eq_false_iff {s : State} {k : SlotId} (running : (s.slot k).tmrArmed = true) :
    s.elapsed k = false ↔ (s.now - (s.slot k).tmrStart).toNat < 30000 := by
  rw [← Bool.not_eq_true, elapsed_iff running, Nat.not_le]

/-- The clock's modular difference is the time that passed, short of a whole wrap (R101, 70_reset_and_hazards.md
R167). -/
theorem toNat_add_ofNat_sub (start : Time) {ms : Nat} (noWrap : ms < 2 ^ 32) :
    (start + BitVec.ofNat 32 ms - start).toNat = ms := by
  rw [BitVec.add_comm, BitVec.add_sub_cancel, BitVec.toNat_ofNat, Nat.mod_eq_of_lt noWrap]

/-! ### One evaluation of the receive machine, state by state (R103) -/

section

variable {s : State} {k : SlotId}

theorem pollSlot_of_settled (settled : (s.slot k).pending = false) : s.pollSlot k = s := by
  simpa [settled] using pollSlot_cases s k

theorem pollSlot_of_stopped (pending : (s.slot k).pending = true) (stopped : (s.slot k).tmrArmed = false) :
    s.pollSlot k = s.timerStart k := by
  simpa [pending, stopped] using pollSlot_cases s k

theorem pollSlot_of_elapsed (pending : (s.slot k).pending = true) (running : (s.slot k).tmrArmed = true)
    (elapsed : s.elapsed k = true) : s.pollSlot k = s.timeout k := by
  simpa [pending, running, elapsed] using pollSlot_cases s k

theorem pollSlot_of_frame (pending : (s.slot k).pending = true) (running : (s.slot k).tmrArmed = true)
    (early : s.elapsed k = false) (enough : k.size ≤ s.rx.length) : s.pollSlot k = s.complete k := by
  simpa [pending, running, early, enough, Nat.not_lt.mpr enough] using pollSlot_cases s k

theorem pollSlot_of_short (pending : (s.slot k).pending = true) (running : (s.slot k).tmrArmed = true)
    (early : s.elapsed k = false) (short : s.rx.length < k.size) : s.pollSlot k = s := by
  simpa [pending, running, early, short, Nat.not_le.mpr short] using pollSlot_cases s k

/-- None of the ways in which a POLL changes a slot touches `used` (10_state.md R23). -/
theorem used_pollSlot (isCurrent : s.current = some k) : ((s.pollSlot k).slot k).used = (s.slot k).used := by
  cases pollSlot_slotChange isCurrent with
  | kept slot | armed _ _ _ _ slot | settled _ _ _ _ _ slot => rw [slot]
  | taken isIssue => cases isIssue
  | released isRelease => cases isRelease

/-! ### POLL as an operation -/

theorem exec_poll (s : State) : exec .poll s = .next (s.pollCurrent.reply .ok []) := rfl

/-- POLL of the current slot k evaluates its receive machine and answers OK. -/
theorem exec_poll_of_current (isCurrent : s.current = some k) :
    exec .poll s = .next ((s.pollSlot k).reply .ok []) := by
  rw [exec_poll, State.pollCurrent, isCurrent]

/-- Whatever the receive machine does, POLL leaves everything outside its slot but the stream. -/
theorem pollFrame_pollSlot (isCurrent : s.current = some k) : PollFrame s ((s.pollSlot k).reply .ok []) k := by
  obtain ⟨otherSlots, otherBytes⟩ := pollSlot_onlySlot s k
  obtain ⟨hnow, hreq, hout, hinputs⟩ := pollSlot_sameInterface s k
  exact {
    only := ⟨fun j hj => by rw [slot_reply, otherSlots j hj], otherBytes⟩
    used := by rw [slot_reply, used_pollSlot isCurrent]
    current := current_pollSlot s k
    tx := (pollSlot_transport s k).1
    now := hnow
    req := hreq
    inputs := hinputs
    answered := by rw [reply_eq, out_answer, hout, code_ok] }

end

/-! ### The timed-out slot -/

theorem memRead_timeout (s : State) {k : SlotId} {n : Nat} (hn : n < k.size) : (s.timeout k).memRead k n = 0 := by
  rw [State.memRead, mem_timeout]
  exact memRead_zeroBuffer s.rxFlush k n hn

/-- A slot that received nothing is not valid, whatever its buffer holds (43_responses.md R110). -/
theorem valid_of_not_received {s : State} {k : SlotId} (notReceived : (s.slot k).rcvd = false) :
    s.valid k = false := by
  simp [State.valid, notReceived]

theorem exec_isValid_byte (s : State) (k : SlotId) :
    exec (.isValid k.byte) s = .next (s.reply .ok [bitByte (s.valid k)]) :=
  congrArg Host.Outcome.next (onSlot_byte s k _)

/-! ### What lands between two POLLs -/

@[simp] theorem slot_with_rx_now (s : State) (rx : List Byte) (now : Time) (k : SlotId) :
    ({ s with rx := rx, now := now } : State).slot k = s.slot k := by
  cases k <;> rfl

/-- What a second POLL finds in v, `ms` milliseconds after the first one armed slot k's timer in s. -/
structure ArmedFor (s v : State) (k : SlotId) (ms : Nat) : Prop where
  /-- The slot is still the one that POLL drives. -/
  isCurrent : v.current = some k
  /-- The caller still holds the slot as it did. -/
  used : (v.slot k).used = (s.slot k).used
  /-- The first POLL does not end the pending period. -/
  pending : (v.slot k).pending = true
  /-- It leaves the timer armed. -/
  running : (v.slot k).tmrArmed = true
  /-- `Elapsed` compares this difference with the deadline (R101). -/
  waited : (v.now - (v.slot k).tmrStart).toNat = ms

/-! ### The statements -/

/-- Settles O36: without a current slot POLL evaluates nothing, and a settled slot's receive machine does nothing. -/
theorem pollWithNothingPending : Obligations.PollWithNothingPending := by
  intro s idle
  have unchanged : s.pollCurrent = s := by
    rcases idle with noCurrent | ⟨k, isCurrent, settled⟩
    · rw [State.pollCurrent, noCurrent]
    · rw [State.pollCurrent, isCurrent]
      exact pollSlot_of_settled settled
  rw [exec_poll, unchanged, reply_ok]

/-- Settles O37: a stopped timer is tested before the deadline and the stream. -/
theorem pollArmsTimer : Obligations.PollArmsTimer := by
  intro s k isCurrent pending stopped
  have frame := pollFrame_pollSlot isCurrent
  have run := exec_poll_of_current isCurrent
  rw [pollSlot_of_stopped pending stopped] at frame run
  exact ⟨_, run, by simp, mem_timerStart s k, rx_timerStart s k, frame⟩

/-- Settles O38: past the deadline the receive machine times out before it looks at the stream. -/
theorem pollTimesOut : Obligations.PollTimesOut := by
  intro s k isCurrent pending running late
  have frame := pollFrame_pollSlot isCurrent
  have run := exec_poll_of_current isCurrent
  rw [pollSlot_of_elapsed pending running ((elapsed_iff running).mpr late)] at frame run
  exact ⟨_, run, by simp, fun _ hi => memRead_timeout s hi, rx_timeout s k, valid_of_not_received (by simp), frame⟩

/-- Settles O39, from everything Complete does when the stream holds the frame. -/
theorem pollCompletes : Obligations.PollCompletes := by
  intro s k isCurrent pending running early enough
  have frame := pollFrame_pollSlot isCurrent
  have run := exec_poll_of_current isCurrent
  rw [pollSlot_of_frame pending running ((elapsed_eq_false_iff running).mpr early) enough] at frame run
  obtain ⟨slots, bytes, -, -, -, hrx, -⟩ := complete_spec s k enough
  exact ⟨_, run, by simp [slots], bytes, hrx, frame⟩

/-- Settles O40: with the deadline ahead and a frame not yet there, no step of R103 applies. -/
theorem pollKeepsWaiting : Obligations.PollKeepsWaiting := by
  intro s k isCurrent pending running early short
  rw [exec_poll_of_current isCurrent,
    pollSlot_of_short pending running ((elapsed_eq_false_iff running).mpr early) short, reply_ok]

/-- Settles O41: the timeout leaves the current slot settled, whatever then reaches the stream and the clock. -/
theorem timedOutPollsChangeNothing : Obligations.TimedOutPollsChangeNothing := by
  intro s t k rx now isCurrent pending running late h
  obtain ⟨_, run, slot, -, -, -, frame⟩ := pollTimesOut s k isCurrent pending running late
  obtain rfl := Host.Outcome.next.inj (h.symm.trans run)
  refine pollWithNothingPending _ (.inr ⟨k, frame.current.trans isCurrent, ?_⟩)
  rw [slot_with_rx_now, slot]

/-- After the POLL that arms the timer, whatever bytes come in while less than a clock wrap passes, the slot has been
armed for exactly that time. -/
theorem armedFor_after_first_poll {s : State} {k : SlotId} (isCurrent : s.current = some k)
    (pending : (s.slot k).pending = true) (stopped : (s.slot k).tmrArmed = false) {ms : Nat} (noWrap : ms < 2 ^ 32) :
    ∃ t, exec .poll s = .next t ∧ t.rx = s.rx ∧
      ∀ rx, ArmedFor s { t with rx := rx, now := t.now + BitVec.ofNat 32 ms } k ms := by
  obtain ⟨t, run, slot, -, hrx, frame⟩ := pollArmsTimer s k isCurrent pending stopped
  refine ⟨t, run, hrx, fun rx => ⟨frame.current.trans isCurrent, ?used, ?pending, ?running, ?waited⟩⟩ <;>
    rw [slot_with_rx_now, slot]
  case pending => exact pending
  case waited =>
    rw [frame.now]
    exact toNat_add_ofNat_sub s.now noWrap

/-- Settles O42: the second POLL finds the slot armed for less than the deadline and the frame still waiting. -/
theorem replyReadAtSecondPoll : Obligations.ReplyReadAtSecondPoll := by
  intro s k ms isCurrent pending stopped enough early
  obtain ⟨t, run, hrx, armed⟩ := armedFor_after_first_poll isCurrent pending stopped (early.trans (by decide))
  have armed : ArmedFor s (t.land (.clockAdvance ms)) k ms := armed t.rx
  have waiting : (t.land (.clockAdvance ms)).rx = s.rx := hrx
  obtain ⟨u, second, slot, bytes, -, frame⟩ := pollCompletes _ k armed.isCurrent armed.pending armed.running
    (armed.waited.trans_lt early) (by rwa [waiting])
  refine ⟨t, u, run, second, by rw [slot], by rw [slot], frame.used.trans armed.used, fun i hi => ?_⟩
  rw [← waiting, bytes i hi]

/-- Settles O43: the second POLL finds the slot armed for at least the deadline, and the timeout leaves it not valid. -/
theorem deadlineEndsTheWait : Obligations.DeadlineEndsTheWait := by
  intro s k ms bytes isCurrent pending stopped late noWrap
  obtain ⟨t, run, -, armed⟩ := armedFor_after_first_poll isCurrent pending stopped noWrap
  have armed : ArmedFor s ((t.land (.deviceBytes bytes)).land (.clockAdvance ms)) k ms := armed (t.rx ++ bytes)
  obtain ⟨u, second, slot, -, flushed, notValid, -⟩ := pollTimesOut _ k armed.isCurrent armed.pending armed.running
    (late.trans_eq armed.waited.symm)
  refine ⟨t, u, run, second, by rw [slot], notValid, flushed, ?_⟩
  rw [exec_isValid_byte, notValid, reply_ok]
  rfl

/-- Settles O44: the tests of `phase` are the table's rows, given that a pending slot is used (R28 (a)). -/
theorem receiveStateTable : Obligations.ReceiveStateTable := by
  intro s k inv
  cases pending : (s.slot k).pending with
  | true =>
    have used : (s.slot k).used = true := inv.pendingUsed k pending
    cases running : (s.slot k).tmrArmed <;> simp [phase_of_pending pending, running, used]
  | false =>
    cases used : (s.slot k).used with
    | false => simp [phase_of_settled pending, used]
    | true => cases received : (s.slot k).rcvd <;> simp [phase_of_settled pending, used, received]

/-- Settles O20: of the five changes of a slot only `armed` starts its timer or writes `tmr_start`. -/
theorem timerStartRule : Obligations.TimerStartRule := by
  intro i s t k h
  cases exec_slotChange h k with
  | kept slot => simp +contextual [slot]
  | armed isPoll isCurrent pending stopped slot => simp [slot, isPoll, isCurrent, pending, stopped]
  | settled _ _ _ _ _ slot => simp [slot]
  | taken _ _ slot => simp [slot]
  | released _ _ slot => simp +contextual [slot]

end Sys2Proof.Machine

/-! The family of 43_responses.md: the response validator (R110), the payload accessors (R111 to R116) and the caller's
acceptance rule (R118). -/

namespace Sys2Proof.Machine

open Sys2Proof

/-! ### Operations on the slot an operand names -/

section

variable {i : Instr} {s : State} {k : Byte} {run : SlotId → State}

/-- R65: an operand outside the slot ids is answered `[ILLEGAL]`, and nothing else changes. -/
theorem exec_onSlot_illegal (he : exec i s = .next (s.onSlot k run)) (outside : 4 ≤ k.toNat) :
    exec i s = .next { s with out := s.out ++ [[0xFF]] } := by
  rw [he, onSlot_none s outside, replyIllegal_eq, answer_eq]

/-- An operand that names a slot runs the operation on that slot. -/
theorem exec_onSlot_named (he : exec i s = .next (s.onSlot k run)) {j : SlotId} (named : SlotId.ofByte k = some j) :
    exec i s = .next (run j) := by
  obtain rfl := ofByte_eq_some named
  rw [he, onSlot_byte]

end

/-! ### The two accessors with a slot operand -/

theorem exec_isValid (k : Byte) (s : State) :
    exec (.isValid k) s = .next (s.onSlot k fun j => s.reply .ok [bitByte (s.valid j)]) := rfl

theorem exec_getDevaddr (k : Byte) (s : State) :
    exec (.getDevaddr k) s = .next (s.onSlot k fun j => s.reply .ok [s.memRead j 0]) := rfl

/-- Settles O51: the answer is byte 0 of the named slot. -/
theorem getDevaddrResult : Obligations.GetDevaddrResult := by
  refine fun k s => ⟨exec_onSlot_illegal (exec_getDevaddr k s), fun j named => ?_⟩
  rw [exec_onSlot_named (exec_getDevaddr k s) named, reply_ok]

/-! ### Validity (R110) -/

/-- The bytes 0 to n + 1 are the first one, those from 1 to n, and the last one. -/
theorem map_range_add_two (f : Nat → Byte) (n : Nat) :
    (List.range (n + 2)).map f = f 0 :: (List.range n).map (fun i => f (i + 1)) ++ [f (n + 1)] := by
  rw [List.range_succ_eq_map, List.range_succ]
  simp

/-- Every slot but Confirmation holds at least an address byte and a checksum byte (00_scope.md R6). -/
theorem two_le_size {k : SlotId} (notConfirmation : k ≠ .confirmation) : 2 ≤ k.size := by
  cases k with
  | confirmation => exact absurd rfl notConfirmation
  | standard | errorLog | display => decide

/-- The frame check on a whole buffer: byte N-1 against the checksum of bytes 1 to N-2. -/
theorem checksumMatches_bufBytes (s : State) {k : SlotId} (frame : 2 ≤ k.size) :
    checksumMatches (s.bufBytes k) = true ↔ s.memRead k (k.size - 1) =
      Config.checksum ((List.range (k.size - 2)).map (fun i => s.memRead k (i + 1))) := by
  obtain ⟨n, size⟩ := Nat.exists_eq_add_of_le' frame
  rw [State.bufBytes, size, map_range_add_two, checksumMatches_frame, decide_eq_true_eq]
  rfl

/-- R110: of the four slots only Confirmation has no checksum to match. -/
theorem valid_iff (s : State) (k : SlotId) :
    s.valid k = true ↔ (s.slot k).pending = false ∧ (s.slot k).rcvd = true ∧
      (k = .confirmation ∨ s.memRead k (k.size - 1) =
        Config.checksum ((List.range (k.size - 2)).map (fun i => s.memRead k (i + 1)))) := by
  have checked (notConfirmation : k ≠ .confirmation) := checksumMatches_bufBytes s (two_le_size notConfirmation)
  rw [← or_congr_right' checked]
  simp [State.valid, and_assoc]

/-- Settles O50: the answered byte is `Valid` of the named slot, and `valid_iff` says when it is set. -/
theorem isValidResult : Obligations.IsValidResult := by
  refine fun k s => ⟨exec_onSlot_illegal (exec_isValid k s), fun j named => ?_⟩
  refine ⟨bitByte (s.valid j), bitByte_cases _, ?answered, ?set⟩
  case answered => rw [exec_onSlot_named (exec_isValid k s) named, reply_ok]
  case set => rw [bitByte_eq_one_iff, valid_iff]

/-! ### The caller's acceptance (R118) -/

/-- An operation that replies OK gives the wanted result exactly when its values are the wanted ones. -/
theorem answers_ok_iff {i : Instr} {s : State} {values : List Byte} (he : exec i s = .next (s.reply .ok values))
    (wanted : List Byte) :
    (∃ t, exec i s = .next t ∧ t.out = s.out ++ [0x00 :: wanted]) ↔ values = wanted := by
  rw [he, reply_ok]
  simp

/-- Settles O56: each of the caller's two requests answers the wanted byte exactly when its own condition holds. -/
theorem callerAcceptance : Obligations.CallerAcceptance := by
  intro s k
  have isValid := answers_ok_iff (exec_isValid_byte s k) [0x01]
  have hasAddress := answers_ok_iff (exec_onSlot_named (exec_getDevaddr k.byte s) (ofByte_byte k)) [Config.hostAddr]
  rw [List.singleton_inj, bitByte_eq_one_iff] at isValid
  rw [List.singleton_inj] at hasAddress
  exact and_congr isValid hasAddress

/-! ### The Standard value (R112) -/

theorem exec_getValue (s : State) : exec .getValue s =
    .next (s.reply .ok (halfBytes (join16 (s.memRead .standard 1) (s.memRead .standard 2) (s.memRead .standard 3)))) :=
  rfl

/-- Settles O52: GET_VALUE is DECODE16 of bytes 1 to 3 of the Standard buffer. -/
theorem getValueResult : Obligations.GetValueResult := by
  intro s
  have joined := isJoined_join16 (s.memRead .standard 1) (s.memRead .standard 2) (s.memRead .standard 3)
  refine ⟨_, joined, ?_⟩
  rw [exec_getValue, ← exec_decode16, exec_decode16_of_isJoined joined]

/-! ### Nibble pairs (R113) -/

/-- Masking a byte with 0x0F keeps its bits below 4. -/
theorem getLsbD_and_0x0F (b : Byte) (i : Nat) : (b &&& 0x0F#8).getLsbD i = (decide (i < 4) && b.getLsbD i) := by
  have mask : (0x0F#8).getLsbD i = decide (i < 4) := by
    rw [BitVec.getLsbD_ofNat, show 15 = 2 ^ 4 - 1 from rfl, Nat.testBit_two_pow_sub_one, ← Bool.decide_and]
    exact decide_eq_decide.mpr (by omega)
  rw [BitVec.getLsbD_and, mask, Bool.and_comm]

/-- The low nibbles of the two bytes lie side by side, the first one high. -/
theorem nib2_eq_append (hi lo : Byte) : nib2 hi lo = hi.extractLsb' 0 4 ++ lo.extractLsb' 0 4 := by
  apply BitVec.eq_of_getLsbD_eq
  intro i inByte
  rw [nib2, BitVec.getLsbD_or, BitVec.getLsbD_shiftLeft, getLsbD_and_0x0F, getLsbD_and_0x0F, BitVec.getLsbD_append]
  rcases Nat.lt_or_ge i 4 with inLow | aboveLow
  · simp [inLow]
  · simp [inByte, Nat.not_lt.mpr aboveLow]

theorem isNibblePair_nib2 (hi lo : Byte) : IsNibblePair (nib2 hi lo) hi lo := by
  rw [nib2_eq_append]
  exact ⟨BitVec.extractLsb'_append_eq_left, BitVec.extractLsb'_append_eq_right⟩

theorem length_nibbleChars (s : State) (k : SlotId) (at0 n : Nat) : (s.nibbleChars k at0 n).length = n := by
  rw [State.nibbleChars, List.length_map, List.length_range]

/-- Character i is the nibble pair of the i-th two bytes from `at0` on. -/
theorem nibbleChars_isNibblePair (s : State) (k : SlotId) (at0 : Nat) {n i : Nat} (hi : i < n) :
    ∃ v, (s.nibbleChars k at0 n)[i]? = some v ∧
      IsNibblePair v (s.memRead k (at0 + 2 * i)) (s.memRead k (at0 + 1 + 2 * i)) :=
  ⟨_, by rw [State.nibbleChars, List.getElem?_map, List.getElem?_range hi, Option.map_some], isNibblePair_nib2 _ _⟩

/-! ### The accessors that decode nibble pairs (R114 to R116) -/

theorem exec_getErrId (s : State) :
    exec .getErrId s = .next (s.reply .ok [nib2 (s.memRead .errorLog 1) (s.memRead .errorLog 2)]) := rfl

theorem exec_getErrLog (s : State) : exec .getErrLog s = .next (s.reply .ok (s.nibbleChars .errorLog 3 15)) := rfl

theorem exec_getDisplay (s : State) :
    exec .getDisplay s = .next (s.reply .ok (BitVec.ofNat 8 s.displayText.length :: s.displayText)) := rfl

/-- R116: the text is the twenty characters without the NULs. -/
theorem displayText_eq (s : State) : s.displayText = (s.nibbleChars .display 1 20).filter (· ≠ 0) := rfl

/-- Settles O53, from the one nibble pair it answers. -/
theorem getErrIdResult : Obligations.GetErrIdResult := by
  refine fun s => ⟨_, isNibblePair_nib2 _ _, ?_⟩
  rw [exec_getErrId, reply_ok]

/-- Settles O54: the text is fifteen nibble pairs from byte 3 on, as they are. -/
theorem getErrLogResult : Obligations.GetErrLogResult := by
  refine fun s => ⟨s.nibbleChars .errorLog 3 15, length_nibbleChars _ _ _ _, ?pairs, ?answered⟩
  case pairs => exact fun _ hi => nibbleChars_isNibblePair s .errorLog 3 hi
  case answered => rw [exec_getErrLog, reply_ok]

/-- Settles O55: the characters are twenty nibble pairs from byte 1 on, and the answer is those left by the filter. -/
theorem getDisplayResult : Obligations.GetDisplayResult := by
  refine fun s => ⟨s.nibbleChars .display 1 20, length_nibbleChars _ _ _ _, ?pairs, ?answered⟩
  case pairs => exact fun _ hi => nibbleChars_isNibblePair s .display 1 hi
  case answered => rw [exec_getDisplay, reply_ok, displayText_eq]

end Sys2Proof.Machine

/-! The family of 44_controller.md: the busy predicates (R120), the issue operations (R121 to R128), RELEASE and the
status reads (R129 to R133), and what the arbiter keeps (R134, R135). -/

namespace Sys2Proof.Machine

open Sys2Proof

/-! ### The busy predicates (R120) -/

theorem anyPending_iff (s : State) : s.anyPending = true ↔ ∃ j, (s.slot j).pending = true := by
  simp only [State.anyPending, Bool.or_eq_true]
  constructor
  · rintro (((h | h) | h) | h)
    · exact ⟨.standard, h⟩
    · exact ⟨.confirmation, h⟩
    · exact ⟨.errorLog, h⟩
    · exact ⟨.display, h⟩
  · rintro ⟨j, h⟩
    cases j with
    | standard => exact .inl (.inl (.inl h))
    | confirmation => exact .inl (.inl (.inr h))
    | errorLog => exact .inl (.inr h)
    | display => exact .inr h

theorem busyUnder_untilRelease_iff (s : State) (k : SlotId) :
    s.busyUnder k .untilRelease = true ↔ s.current ≠ none := Option.isSome_iff_ne_none

theorem busyUnder_pendingOnly_iff (s : State) (k : SlotId) :
    s.busyUnder k .pendingOnly = true ↔ (∃ j, (s.slot j).pending = true) ∨ (s.slot k).used = true := by
  rw [State.busyUnder, Bool.or_eq_true, anyPending_iff]

/-- Settles O29, one policy at a time. -/
theorem busyPredicate : Obligations.BusyPredicate := fun s k =>
  ⟨busyUnder_untilRelease_iff s k, busyUnder_pendingOnly_iff s k, rfl⟩

/-- Under UNTIL_RELEASE an issue is accepted only while no slot is current. -/
theorem current_of_free {s : State} {k : SlotId} (policy : Config.arbPolicy = .untilRelease)
    (free : s.busy k = false) : s.current = none := by
  by_contra held
  rw [State.busy, policy, (busyUnder_untilRelease_iff s k).mpr held] at free
  cases free

/-- Neither policy turns away an issue to an unused slot when no slot is current and none is pending. -/
theorem free_of_idle {s : State} {k : SlotId} (noCurrent : s.current = none)
    (settled : ∀ j, (s.slot j).pending = false) (unused : (s.slot k).used = false) : s.busy k = false := by
  rw [State.busy, ← Bool.not_eq_true]
  cases Config.arbPolicy with
  | untilRelease => simp [busyUnder_untilRelease_iff, noCurrent]
  | pendingOnly => simp [busyUnder_pendingOnly_iff, settled, unused]

/-! ### What UNTIL_RELEASE keeps (R134) -/

theorem policyInvariant_iff (s : State) :
    PolicyInvariant s ↔ (Config.arbPolicy = .untilRelease → HeldUntilRelease s) := by
  unfold PolicyInvariant
  cases Config.arbPolicy <;> simp

/-- The claim speaks of the slots and the current reference only. -/
theorem HeldUntilRelease.congr {s t : State} (held : HeldUntilRelease s) (slots : ∀ k, t.slot k = s.slot k)
    (hcurrent : t.current = s.current) : HeldUntilRelease t := by
  intro k used
  rw [slots k] at used
  exact hcurrent.trans (held k used)

/-- POLL never changes `used` (10_state.md R23). -/
theorem used_pollCurrent (s : State) (k : SlotId) : (s.pollCurrent.slot k).used = (s.slot k).used := by
  rcases pollCurrent_cases s with ⟨-, h⟩ | ⟨j, isCurrent, h⟩ <;> rw [h]
  case inr =>
    by_cases hk : k = j
    · subst hk
      exact used_pollSlot isCurrent
    · rw [(pollSlot_onlySlot s j).otherSlots k hk]

/-- Every operation keeps the claim under UNTIL_RELEASE: an issue is accepted only when no slot is held. -/
theorem exec_keeps_heldUntilRelease {i : Instr} {s t : State} (policy : Config.arbPolicy = .untilRelease)
    (held : HeldUntilRelease s) (h : exec i s = .next t) : HeldUntilRelease t := by
  obtain ⟨u, status, values, rfl, effect⟩ := effect_of_exec h
  refine HeldUntilRelease.congr (s := u) ?_ (slot_reply u status values) (current_reply u status values)
  intro k used
  cases effect with
  | same => exact held k used
  | poll =>
    rw [used_pollCurrent] at used
    rw [current_pollCurrent, held k used]
  | issued j _ _ _ _ free =>
    by_cases hk : k = j
    · rw [hk, current_acquire]
    · have usedBefore : (s.slot k).used = true := by simpa [hk] using used
      have noCurrent : s.current = none := current_of_free policy free
      simp [held k usedBefore] at noCurrent
  | released j =>
    by_cases hk : k = j
    · simp [hk] at used
    · have usedBefore : (s.slot k).used = true := by simpa [hk] using used
      simp [held k usedBefore, hk]

/-- Every environment event keeps the claim: only reset touches the slots, and it leaves none used. -/
theorem land_keeps_heldUntilRelease {s : State} (held : HeldUntilRelease s) (e : Input) :
    HeldUntilRelease (s.land e) := by
  cases e with
  | requestBytes | deviceBytes | clockAdvance => exact held.congr (fun k => by cases k <;> rfl) rfl
  | assertReset => exact heldUntilRelease_reset.congr (fun k => by cases k <;> rfl) rfl

theorem step_keeps_heldUntilRelease {s t : State} (policy : Config.arbPolicy = .untilRelease)
    (held : HeldUntilRelease s) (h : step s = .next t) : HeldUntilRelease t := by
  rcases step_cases h with ⟨i, later, -, he⟩ | ⟨op, later, -, rfl⟩ | ⟨-, e, later, -, rfl⟩
  case inl => exact exec_keeps_heldUntilRelease policy (held.congr (slot_withReq s later) (current_withReq s later)) he
  case inr.inl => exact held.congr (fun k => by simp [replyIllegal_eq]) (by simp [replyIllegal_eq])
  case inr.inr =>
    exact land_keeps_heldUntilRelease (held.congr (slot_withInputs s later) (current_withInputs s later)) e

/-- Settles O7: PENDING_ONLY asks nothing, and under UNTIL_RELEASE every step keeps that a used slot is current. -/
theorem stepKeepsHeldUntilRelease : Obligations.StepKeepsHeldUntilRelease := by
  intro s t inv h
  rw [policyInvariant_iff] at inv ⊢
  exact fun policy => step_keeps_heldUntilRelease policy (inv policy) h

/-! ### Issue (R121, R122) -/

section

variable {i : Instr} {s : State} {k : SlotId} {cmd : Byte} {reg data : Half}

/-- An accepted issue does what R121 and R122 list, and its frame is that of R67. -/
theorem issued_issue (free : s.busy k = false) :
    Issued s (s.issue k cmd reg data) k (wireFrame Config.devAddr cmd reg data) := by
  rw [issue_free free, encodeFrame_eq_wireFrame]
  obtain ⟨otherSlots, otherBytes⟩ := acquire_onlySlot (s.txWrite (wireFrame Config.devAddr cmd reg data)) k
  exact {
    slotTaken := by simp
    bufferZero := fun n hn => by rw [memRead_reply, memRead_acquire _ hn]
    only := ⟨fun j hj => by rw [slot_reply, otherSlots j hj, slot_txWrite], otherBytes⟩
    current := by simp
    sent := by simp
    rx := by simp
    now := by simp [reply_eq]
    req := by simp [reply_eq]
    inputs := by simp [reply_eq]
    answered := by simp [reply_eq] }

/-- An issue while the arbiter is busy answers BUSY and changes nothing else. -/
theorem exec_issue_busy (he : exec i s = .next (s.issue k cmd reg data)) (busy : s.busy k = true) :
    exec i s = .next { s with out := s.out ++ [[0x01]] } := by
  rw [he, issue_busy busy, reply_eq, answer_eq, code_busy]

/-- An operation that issues: BUSY alone when the arbiter is busy for the slot, and else an accepted issue. -/
theorem exec_issue (he : exec i s = .next (s.issue k cmd reg data)) :
    (s.busy k = true → exec i s = .next { s with out := s.out ++ [[0x01]] }) ∧
    (s.busy k = false → ∃ t, exec i s = .next t ∧ Issued s t k (wireFrame Config.devAddr cmd reg data)) :=
  ⟨exec_issue_busy he, fun free => ⟨_, he, issued_issue free⟩⟩

end

/-! ### The issue operations (R123 to R128) -/

theorem isIdOf_iff (ids : List CmdId) (cmd : Byte) : isIdOf ids cmd = true ↔ ∃ c ∈ ids, cmd = Config.cmdId c := by
  simp [isIdOf, eq_comm (a := cmd)]

theorem isIdOf_of_foreign {ids : List CmdId} {cmd : Byte} (foreign : ∀ c ∈ ids, cmd ≠ Config.cmdId c) :
    ¬ isIdOf ids cmd = true := by
  rw [isIdOf_iff]
  rintro ⟨c, listed, isId⟩
  exact foreign c listed isId

theorem exec_rdReg {cmd : Byte} (legal : isIdOf readRegisterIds cmd = true) (reg : Half) (s : State) :
    exec (.rdReg cmd reg) s = .next (s.issue .standard cmd reg 0) := by
  simp only [exec, execRdReg, if_pos legal]

theorem exec_wrReg {cmd : Byte} (legal : isIdOf writeRegisterIds cmd = true) (reg data : Half) (s : State) :
    exec (.wrReg cmd reg data) s = .next (s.issue .confirmation cmd reg data) := by
  simp only [exec, execWrReg, if_pos legal]

theorem exec_rdLastErr (s : State) :
    exec .rdLastErr s = .next (s.issue .errorLog (Config.cmdId .readLastError) 0 0) := rfl

theorem exec_rdPrevErr (s : State) :
    exec .rdPrevErr s = .next (s.issue .errorLog (Config.cmdId .readPrevError) 0 0) := rfl

theorem exec_rdVersion (s : State) :
    exec .rdVersion s = .next (s.issue .standard (Config.cmdId .readFwVersion) 0 0) := rfl

theorem exec_rdDisplay (reg : Half) (s : State) :
    exec (.rdDisplay reg) s = .next (s.issue .display (Config.cmdId .readDisplay) reg 0) := rfl

theorem next_replyIllegal (s : State) :
    (.next s.replyIllegal : Answer) = .next { s with out := s.out ++ [[0xFF]] } := by
  rw [replyIllegal_eq, answer_eq]

/-- Settles O30: outside the read ids RD_REG answers ILLEGAL unasked, and with one of them it issues. -/
theorem rdRegRule : Obligations.RdRegRule := by
  refine fun cmd reg s => ⟨fun foreign => ?illegal, fun isRead => ?legal⟩
  case illegal => rw [exec_rdReg_illegal (isIdOf_of_foreign foreign), next_replyIllegal]
  case legal => exact exec_issue (exec_rdReg ((isIdOf_iff readRegisterIds cmd).mpr isRead) reg s)

/-- Settles O31, as O30 with the write ids. -/
theorem wrRegRule : Obligations.WrRegRule := by
  refine fun cmd reg data s => ⟨fun foreign => ?illegal, fun isWrite => ?legal⟩
  case illegal => rw [exec_wrReg_illegal (isIdOf_of_foreign foreign), next_replyIllegal]
  case legal => exact exec_issue (exec_wrReg ((isIdOf_iff writeRegisterIds cmd).mpr isWrite) reg data s)

/-- Settles O32: each of the four operations is an issue. -/
theorem fixedCommandRules : Obligations.FixedCommandRules := by
  intro s
  obtain ⟨lastErrBusy, lastErrFree⟩ := exec_issue (exec_rdLastErr s)
  obtain ⟨prevErrBusy, prevErrFree⟩ := exec_issue (exec_rdPrevErr s)
  obtain ⟨versionBusy, versionFree⟩ := exec_issue (exec_rdVersion s)
  exact ⟨fun busy => ⟨lastErrBusy busy, prevErrBusy busy⟩, fun free => ⟨lastErrFree free, prevErrFree free⟩,
    versionBusy, versionFree, fun reg => exec_issue (exec_rdDisplay reg s)⟩

/-- What an operation that targets slot k can be: turned away as illegal, or an issue to that slot. -/
theorem exec_of_issueSlot {i : Instr} {k : SlotId} (target : issueSlot i = some k) (s : State) :
    exec i s = .next s.replyIllegal ∨ ∃ cmd reg data, exec i s = .next (s.issue k cmd reg data) := by
  cases i with
  | rdReg cmd reg =>
    cases target
    by_cases legal : isIdOf readRegisterIds cmd = true
    · exact .inr ⟨_, _, _, exec_rdReg legal reg s⟩
    · exact .inl (exec_rdReg_illegal legal reg s)
  | wrReg cmd reg data =>
    cases target
    by_cases legal : isIdOf writeRegisterIds cmd = true
    · exact .inr ⟨_, _, _, exec_wrReg legal reg data s⟩
    · exact .inl (exec_wrReg_illegal legal reg data s)
  | rdLastErr | rdPrevErr | rdVersion | rdDisplay =>
    cases target
    exact .inr ⟨_, _, _, rfl⟩
  | nop | csum | chkframe | encode | decode16 | poll | release | isUsed | isPending | isValid | getDevaddr | readBuf
  | getValue | getErrId | getErrLog | getDisplay => cases target

/-- Settles O34: a pending slot is the current one, which makes the arbiter busy for every slot under both policies. -/
theorem secondCommandRefused : Obligations.SecondCommandRefused := by
  intro i s j k inv pending target
  have busy : s.busy k = true := busy_of_pending k pending (inv.pendingCurrent j pending)
  rcases exec_of_issueSlot target s with illegal | ⟨cmd, reg, data, issue⟩
  · exact .inr (illegal.trans (next_replyIllegal s))
  · exact .inl (exec_issue_busy issue busy)

/-! ### The accessors after an accepted issue (R121) -/

/-- An operation that targets slot k and answers OK was an accepted issue: BUSY and ILLEGAL are other answers. -/
theorem issued_of_answer {i : Instr} {s t : State} {k : SlotId} (target : issueSlot i = some k)
    (h : exec i s = .next t) (answer : t.out = s.out ++ [[0x00, k.byte]]) : ∃ frame, Issued s t k frame := by
  rcases exec_of_issueSlot target s with illegal | ⟨cmd, reg, data, issue⟩
  case inl =>
    obtain rfl := Host.Outcome.next.inj (h.symm.trans illegal)
    simp [replyIllegal_eq] at answer
  case inr =>
    obtain ⟨ofBusy, ofFree⟩ := exec_issue issue
    cases busy : s.busy k with
    | true =>
      obtain rfl := Host.Outcome.next.inj (h.symm.trans (ofBusy busy))
      simp at answer
    | false =>
      obtain ⟨u, run, issued⟩ := ofFree busy
      obtain rfl := Host.Outcome.next.inj (h.symm.trans run)
      exact ⟨_, issued⟩

/-- Zero bytes decode to NUL characters (43_responses.md R113). -/
theorem nibbleChars_of_zero {s : State} {k : SlotId} (at0 n : Nat)
    (zero : ∀ i, i < at0 + 2 * n → s.memRead k i = 0) : s.nibbleChars k at0 n = List.replicate n 0 := by
  rw [State.nibbleChars, List.eq_replicate_iff]
  refine ⟨by simp, fun c isChar => ?_⟩
  obtain ⟨i, inRange, rfl⟩ := List.mem_map.mp isChar
  have hi : i < n := List.mem_range.mp inRange
  rw [zero (at0 + 2 * i) (by omega), zero (at0 + 1 + 2 * i) (by omega)]
  rfl

/-- A zeroed Standard buffer has value 0. -/
theorem getValue_of_zero {s : State} (zero : ∀ i, i < SlotId.size .standard → s.memRead .standard i = 0) :
    exec .getValue s = .next { s with out := s.out ++ [[0x00, 0x00, 0x00]] } := by
  rw [exec_getValue, reply_ok, zero 1 (by decide), zero 2 (by decide), zero 3 (by decide)]
  rfl

/-- A zeroed Error-log buffer has error id 0. -/
theorem getErrId_of_zero {s : State} (zero : ∀ i, i < SlotId.size .errorLog → s.memRead .errorLog i = 0) :
    exec .getErrId s = .next { s with out := s.out ++ [[0x00, 0x00]] } := by
  rw [exec_getErrId, reply_ok, zero 1 (by decide), zero 2 (by decide)]
  rfl

/-- A zeroed Error-log buffer has fifteen NULs for its text. -/
theorem getErrLog_of_zero {s : State} (zero : ∀ i, i < SlotId.size .errorLog → s.memRead .errorLog i = 0) :
    exec .getErrLog s = .next { s with out := s.out ++ [0x00 :: List.replicate 15 0x00] } := by
  have text := nibbleChars_of_zero 3 15 fun i hi => zero i (hi.trans (by decide))
  rw [exec_getErrLog, reply_ok, text]

/-- A zeroed Display buffer has no text: every character is an omitted NUL. -/
theorem getDisplay_of_zero {s : State} (zero : ∀ i, i < SlotId.size .display → s.memRead .display i = 0) :
    exec .getDisplay s = .next { s with out := s.out ++ [[0x00, 0x00]] } := by
  have chars := nibbleChars_of_zero 1 20 fun i hi => zero i (hi.trans (by decide))
  have noText : s.displayText = [] := by rw [displayText_eq, chars]; simp
  rw [exec_getDisplay, reply_ok, noText]
  rfl

/-- Settles O35: the issue was accepted, so the slot's buffer reads zero, and each accessor decodes zero bytes. -/
theorem noStaleContentAfterIssue : Obligations.NoStaleContentAfterIssue := by
  intro i s t k target h answer
  obtain ⟨_, issued⟩ := issued_of_answer target h answer
  have zero := issued.bufferZero
  refine ⟨?devaddr, ?value, ?error, ?display⟩
  case devaddr => rw [exec_onSlot_named (exec_getDevaddr k.byte t) (ofByte_byte k), reply_ok, zero 0 (size_pos k)]
  case value =>
    rintro rfl
    exact getValue_of_zero zero
  case error =>
    rintro rfl
    exact ⟨getErrId_of_zero zero, getErrLog_of_zero zero⟩
  case display =>
    rintro rfl
    exact getDisplay_of_zero zero

/-! ### RELEASE (R129) -/

theorem exec_release (k : Byte) (s : State) : exec (.release k) s = .next (s.onSlot k fun j =>
    if (s.slot j).pending then s.reply .refusedPending [] else (s.releaseSlot j).reply .ok []) := rfl

theorem exec_release_pending {k : Byte} {s : State} {j : SlotId} (named : SlotId.ofByte k = some j)
    (pending : (s.slot j).pending = true) : exec (.release k) s = .next (s.reply .refusedPending []) := by
  rw [exec_onSlot_named (exec_release k s) named, if_pos pending]

theorem exec_release_settled {k : Byte} {s : State} {j : SlotId} (named : SlotId.ofByte k = some j)
    (settled : (s.slot j).pending = false) : exec (.release k) s = .next ((s.releaseSlot j).reply .ok []) := by
  rw [exec_onSlot_named (exec_release k s) named, settled, if_neg Bool.false_ne_true]

/-- Settles O45, one outcome at a time. -/
theorem releaseRule : Obligations.ReleaseRule := by
  refine fun k s => ⟨exec_onSlot_illegal (exec_release k s), fun j named =>
    ⟨fun pending => ?refused, fun settled => ?done⟩⟩
  case refused => rw [exec_release_pending named pending, reply_eq, answer_eq, code_refusedPending]
  case done =>
    refine ⟨_, exec_release_settled named settled, by simp, fun l hl => by simp [hl], by simp, by simp, by simp,
      by simp, ?_⟩
    simp [reply_eq]

/-- Settles O46: the current slot was the only one that could be pending, so after its release none is, and none is
current. -/
theorem releaseThenReissue : Obligations.ReleaseThenReissue := by
  intro s t k inv isCurrent settled h
  obtain rfl := Host.Outcome.next.inj (h.symm.trans (exec_release_settled (ofByte_byte k) settled))
  have nonePending (j : SlotId) : (s.slot j).pending = false := by
    by_contra pending
    rw [Bool.not_eq_false] at pending
    obtain rfl : k = j := Option.some.inj (isCurrent.symm.trans (inv.pendingCurrent j pending))
    simp [settled] at pending
  refine free_of_idle (by simp [isCurrent]) (fun j => ?pending) (by simp)
  case pending => by_cases hj : j = k <;> simp [hj, nonePending]

/-! ### The status reads, READ_BUF and NOP (R130 to R133) -/

theorem exec_nop (s : State) : exec .nop s = .next (s.reply .ok []) := rfl

theorem exec_isUsed (k : Byte) (s : State) :
    exec (.isUsed k) s = .next (s.onSlot k fun j => s.reply .ok [bitByte (s.slot j).used]) := rfl

theorem exec_isPending (k : Byte) (s : State) :
    exec (.isPending k) s = .next (s.onSlot k fun j => s.reply .ok [bitByte (s.slot j).pending]) := rfl

theorem exec_readBuf (k i : Byte) (s : State) : exec (.readBuf k i) s = .next (s.onSlot k fun j =>
    if i.toNat < j.size then s.reply .ok [s.memRead j i.toNat] else s.replyIllegal) := rfl

/-- Settles O23: NOP is a reply of OK alone. -/
theorem nopAnswersOk : Obligations.NopAnswersOk := by
  intro s
  rw [exec_nop, reply_ok]

/-- Settles O47: the answer is the named slot's `used` as a byte. -/
theorem isUsedResult : Obligations.IsUsedResult := by
  refine fun k s => ⟨exec_onSlot_illegal (exec_isUsed k s), fun j named => ?_⟩
  rw [exec_onSlot_named (exec_isUsed k s) named, reply_ok, bitByte]

/-- Settles O48: the answer is the named slot's `pending` as a byte. -/
theorem isPendingResult : Obligations.IsPendingResult := by
  refine fun k s => ⟨exec_onSlot_illegal (exec_isPending k s), fun j named => ?_⟩
  rw [exec_onSlot_named (exec_isPending k s) named, reply_ok, bitByte]

/-- Settles O49: past the slot operand, the index decides between the byte and ILLEGAL. -/
theorem readBufResult : Obligations.ReadBufResult := by
  refine fun k i s => ⟨exec_onSlot_illegal (exec_readBuf k i s), fun j named => ?_⟩
  rw [exec_onSlot_named (exec_readBuf k i s) named]
  refine ⟨fun outside => ?outside, fun inside => ?inside⟩
  case outside => rw [if_neg (Nat.not_lt.mpr outside), next_replyIllegal]
  case inside => rw [if_pos inside, reply_ok]

end Sys2Proof.Machine

/-! The family of 60_exceptions.md: nothing faults, and the only stop is the wait for request bytes (R140). -/

namespace Sys2Proof.Machine

open Sys2Proof

/-- No operation faults or refuses, whatever the state (R140): each answers with one reply. -/
theorem exec_answers (i : Instr) (s : State) : ∃ t, exec i s = .next t :=
  let ⟨u, status, values, he, _⟩ := exec_cases i s
  ⟨u.reply status values, he⟩

/-- Settles O15, by what the decoder finds on the port: an operation or an unassigned opcode is answered, and without a
whole request (30_encoding.md R66) the next event lands, if there is one. -/
theorem everyStepIsSafe : Obligations.EveryStepIsSafe := by
  intro s
  unfold SafeStep
  cases hd : decode s.req with
  | request i later =>
    left
    rw [step_of_request hd]
    exact exec_answers i (s.withReq later)
  | illegal op later => exact .inl ⟨_, step_of_illegal hd⟩
  | incomplete =>
    cases he : s.inputs with
    | nil => exact .inr ⟨step_of_waiting hd he, rfl, rfl⟩
    | cons e later => exact .inl ⟨_, step_of_incomplete hd he⟩

end Sys2Proof.Machine
